-- ==== Sys2Proof/Word.lean ====
section
/-! DEFINITION. The word types of the device: a byte of the buffer memory and a 32-bit register
(00_scope.md R10). Lengths, offsets and sums of rules are naturals (R11) and are no words. -/

namespace Sys2Proof

/-- One byte of the buffer memory or of a stream. -/
abbrev Byte := BitVec 8

/-- A 32-bit unsigned register or command word (00_scope.md R10, `u32`). -/
abbrev Word := BitVec 32

/-- A byte sequence, byte 0 first (00_scope.md R10). -/
abbrev Bytes := List Byte

end Sys2Proof
end

