-- ==== Sys2Proof/Config.lean ====
section
/-! DEFINITION. What is fixed for one device: the constants of the spec, the two open parameters, and
the free values of the bytes the spec leaves unspecified. An `opaque` constant has no body: nothing
can evaluate it, so a claim holds whatever its value is. -/

namespace Sys2Proof.Config

/-- The ID register's constant, "PCF1" (10_state.md R21, 00_scope.md R2). -/
def idWord : Word := 0x50434631#32

/-- The host-window offset of buffer byte 0 (00_scope.md R7). -/
def bufBase : Nat := 0x01000000

/-- The register block is the host offsets below this one (10_state.md R20, 00_scope.md R7). -/
def regBlockBytes : Nat := 0x1000

/-- The reset value of CRC_PLACEHOLDER (00_scope.md R9). -/
def crcPlaceholderReset : Word := 0#32

/-- The free choice behind MEM_BYTES (log entry 7). -/
opaque memSizeChoice : Nat

/-- The free choice behind KMAX_BITS (log entry 7). -/
opaque keySizeChoice : Nat

/-- MEM_BYTES of the device that `State.reset` describes: any multiple of 4 from 4096 to 2^24
(00_scope.md R5), and nothing says which. DESIGN CHOICE, log entry 7. -/
def memBytes : Nat := 4 * (memSizeChoice % 4193281) + 4096

/-- KMAX_BITS of the device that `State.reset` describes: any multiple of 32 from 1024 to 16384
(00_scope.md R6), and nothing says which. DESIGN CHOICE, log entry 7. -/
def kmaxBits : Nat := 32 * (keySizeChoice % 481) + 1024

/-- The free draws: `freeByte n a` is the byte drawn for buffer address `a` in the n-th batch of
draws (40_common.md R152; 93_implementation_defined.md section 2). DESIGN CHOICE, log entries 5, 6. -/
opaque freeByte : Nat → Nat → Byte

end Sys2Proof.Config
end

