-- ==== Sys2Proof/Machine/State.lean ====
section
/-! DEFINITION. The state of the device as plain data: the register block, the internal state and the
buffer memory of 10_state.md, and beside them the model's own bookkeeping (the schedule of the host's
and the engine's steps, the answers the host got, the counters of free draws). The stopping reasons
and the state right after a hardware reset. -/

namespace Sys2Proof.Machine

/-- The parameters of one device (00_scope.md R5, R6): MEM_BYTES and KMAX_BITS. No step changes them. -/
structure Params where
  memBytes : Nat
  kmaxBits : Nat
  deriving DecidableEq, Repr

/-- The constraints of 00_scope.md R5 and R6. -/
abbrev Params.Legal (p : Params) : Prop :=
  (p.memBytes % 4 = 0 ∧ 4096 ≤ p.memBytes ∧ p.memBytes ≤ 2 ^ 24) ∧
  (p.kmaxBits % 32 = 0 ∧ 1024 ≤ p.kmaxBits ∧ p.kmaxBits ≤ 16384)

/-- KMAX_B, the largest modulus byte width (00_scope.md R6). -/
def Params.kmaxBytes (p : Params) : Nat := p.kmaxBits / 8

/-- The engine phase (10_state.md R65). -/
inductive Phase where
  | idle
  | busy (w : Word)
  deriving DecidableEq, Repr

/-- The stored fields of STATUS (10_state.md R25). BUSY is no field: it is the phase (R26). -/
structure StatusBits where
  done : Bool
  err : Bool
  keyValid : Bool
  crcMatch : Bool
  keyNarrow : Bool
  blockGeN : Bool
  dropNz : Bool
  busyWrite : Bool
  bufBlocked : Bool
  deriving DecidableEq, Repr

/-- The error report registers (10_state.md R36 to R40). -/
structure ErrorReport where
  code : Word
  index : Word
  offset : Word
  expected : Word
  actual : Word
  deriving DecidableEq, Repr

/-- The operand registers common to the units (10_state.md R43, R44, R45). -/
structure OperandRegs where
  srcAddr : Word
  srcLen : Word
  dstAddr : Word
  dstLen : Word
  extAddr : Word
  extLen : Word
  deriving DecidableEq, Repr

/-- OUT_LEN and OUT_EXT_LEN (10_state.md R46). -/
structure OutputRegs where
  len : Word
  extLen : Word
  deriving DecidableEq, Repr

/-- The framer registers (10_state.md R47 to R57). -/
structure FramerRegs where
  cursor : Word
  chLen : Word
  chType : Word
  chCrc : Word
  chCrcCalc : Word
  chDataAddr : Word
  crcPlaceholder : Word
  docNchunks : Word
  docTrailOff : Word
  docTrailLen : Word
  docFlags : Word
  docCrcBad : Word
  deriving DecidableEq, Repr

/-- The filter registers (10_state.md R58, R59). -/
structure FilterRegs where
  width : Word
  height : Word
  bpp : Word
  deriving DecidableEq, Repr

/-- The host-written cipher registers (10_state.md R60 to R63). -/
structure CipherRegs where
  keyBits : Word
  keyAddr : Word
  ivAddr : Word
  plainLen : Word
  deriving DecidableEq, Repr

/-- The internal key registers (10_state.md R66), which the host cannot read; KEY_B and KEY_U are
computed from `kb` (R64). -/
structure KeyRegs where
  kn : Nat
  ke : Nat
  kd : Nat
  kb : Nat
  deriving DecidableEq, Repr

/-- The bytes of the buffer that something has written since the last hardware reset, by rising
address, no address twice. A byte that is not listed holds no value of its own: it reads as a free
draw (70_reset_and_hazards.md R360; log entry 5). -/
abbrev Memory := List Host.Cell

/-- The canonical form of a memory: addresses strictly rising. -/
abbrev Memory.wf (m : Memory) : Prop := m.Pairwise (fun x y => x.1 < y.1)

/-- A host bus transaction (20_memory.md R80). -/
inductive Transaction where
  | read (off size : Nat)
  | write (off size v : Nat)
  deriving DecidableEq, Repr

/-- What a transaction answers (20_memory.md R80). -/
inductive BusAnswer where
  | value (v : Nat)
  | ok
  | busError
  deriving DecidableEq, Repr

/-- One entry of the schedule: which agent moves next and with what (40_common.md R140; log entry 1). -/
inductive Event where
  /-- The host makes this transaction. -/
  | bus (t : Transaction)
  /-- The host polls STATUS until BUSY is 0 (30_encoding.md R117; log entry 3). -/
  | wait
  /-- The engine's turn: its step if the phase is Busy, nothing if it is Idle. -/
  | engine
  /-- A hardware reset arrives (70_reset_and_hazards.md R360). -/
  | hardReset
  deriving DecidableEq, Repr

/-- The state of the machine. The fields down to `mem` are the spec's (10_state.md); `memDraw` and
`draws` count free draws (log entry 6); `script` and `answers` are the outside world's side (log
entry 1). -/
structure State where
  params : Params
  phase : Phase
  lastCmd : Word
  status : StatusBits
  err : ErrorReport
  irqEn : Bool
  donePend : Bool
  operand : OperandRegs
  out : OutputRegs
  framer : FramerRegs
  filter : FilterRegs
  cipher : CipherRegs
  key : KeyRegs
  mem : Memory
  memDraw : Nat
  draws : Nat
  script : List Event
  answers : List BusAnswer
  deriving DecidableEq, Repr

/-- Why the machine could stop with a fault: never. Every word completes its command, by success or by
a fault that the error report registers hold (60_exceptions.md R322), a bus error is an answer
(R330), and the spec has no stuck situation (93_implementation_defined.md), so no reason exists.
Safe: nothing stops. -/
inductive Fault : Type where
  deriving DecidableEq, Repr

/-- Why the machine could refuse. -/
inductive Refusal where
  /-- An arm of `exec` whose instruction has no meaning yet; raised by no arm now. Safe: a run stops. -/
  | notModelled (mnemonic : String)
  deriving DecidableEq, Repr

/-- Every STATUS field 0 (10_state.md R25). -/
def StatusBits.zero : StatusBits :=
  { done := false, err := false, keyValid := false, crcMatch := false, keyNarrow := false,
    blockGeN := false, dropNz := false, busyWrite := false, bufBlocked := false }

/-- The error report of a success, and of a reset (10_state.md R36 to R40, R72). -/
def ErrorReport.zero : ErrorReport :=
  { code := 0#32, index := 0#32, offset := 0#32, expected := 0#32, actual := 0#32 }

/-- The framer registers after a reset (10_state.md R72). -/
def FramerRegs.atReset : FramerRegs :=
  { cursor := 0#32, chLen := 0#32, chType := 0#32, chCrc := 0#32, chCrcCalc := 0#32,
    chDataAddr := 0#32, crcPlaceholder := Config.crcPlaceholderReset, docNchunks := 0#32,
    docTrailOff := 0#32, docTrailLen := 0#32, docFlags := 0#32, docCrcBad := 0#32 }

/-- No key (10_state.md R66, R72). -/
def KeyRegs.zero : KeyRegs := { kn := 0, ke := 0, kd := 0, kb := 0 }

/-- The device with the given parameters right after its first hardware reset: every register at the
value of 10_state.md R72, no byte of the buffer written, the schedule empty. -/
def State.resetOf (p : Params) : State :=
  { params := p
    phase := .idle
    lastCmd := 0#32
    status := StatusBits.zero
    err := ErrorReport.zero
    irqEn := false
    donePend := false
    operand := { srcAddr := 0#32, srcLen := 0#32, dstAddr := 0#32, dstLen := 0#32,
                 extAddr := 0#32, extLen := 0#32 }
    out := { len := 0#32, extLen := 0#32 }
    framer := FramerRegs.atReset
    filter := { width := 0#32, height := 0#32, bpp := 0#32 }
    cipher := { keyBits := 0#32, keyAddr := 0#32, ivAddr := 0#32, plainLen := 0#32 }
    key := KeyRegs.zero
    mem := []
    memDraw := 0
    draws := 1
    script := []
    answers := [] }

/-- The machine right after reset, its parameters left open (log entry 7). -/
def State.reset : State :=
  State.resetOf { memBytes := Config.memBytes, kmaxBits := Config.kmaxBits }

end Sys2Proof.Machine
end

