-- ==== Sys2Proof/Machine/Ops.lean ====
section
/-! DEFINITION. The shared operations: byte order, the buffer memory, accepting a command, completing
it with success, and completing it with a fault (the device's one way of taking an exception). -/

namespace Sys2Proof.Machine

/-! ### Byte order (00_scope.md R12) -/

/-- `LE_n(v)`: byte 0 is the least significant. -/
def leBytes : Nat → Nat → Bytes
  | 0, _ => []
  | n + 1, v => BitVec.ofNat 8 v :: leBytes n (v / 256)

/-- `fromLE(s)`. -/
def fromLE : Bytes → Nat
  | [] => 0
  | b :: bs => b.toNat + 256 * fromLE bs

/-- `BE_n(v)`: byte 0 is the most significant. -/
def beBytes (n v : Nat) : Bytes := (leBytes n v).reverse

/-- `fromBE(s)`; 0 of the empty sequence. -/
def fromBE (s : Bytes) : Nat := fromLE s.reverse

/-- A natural as a register value: `v mod 2^32` (00_scope.md R10). -/
def word (v : Nat) : Word := BitVec.ofNat 32 v

/-- `sat32` (40_common.md R155). -/
def sat32 (v : Nat) : Word := if v < 2 ^ 32 then word v else 0xFFFFFFFF#32

/-! ### The buffer memory (00_scope.md R13, 20_memory.md) -/

/-- The cells of a byte sequence stored at address `a` and up. -/
def cellsFrom : Nat → Bytes → Memory
  | _, [] => []
  | a, b :: bs => (a, b) :: cellsFrom (a + 1) bs

/-- Store a byte sequence at address `a`: the cells below it, the new ones, the cells above it. -/
def Memory.write (m : Memory) (a : Nat) (bs : Bytes) : Memory :=
  m.filter (fun c => c.1 < a) ++ (cellsFrom a bs ++ m.filter (fun c => a + bs.length ≤ c.1))

/-- What a byte that nothing has written since the last hardware reset reads as: its free draw, the
same at every read (70_reset_and_hazards.md R360, R367; log entry 5). -/
def State.unwrittenByte (s : State) (a : Nat) : Byte := Config.freeByte s.memDraw a

/-- `Mem[a]` (00_scope.md R13). -/
def State.readByte (s : State) (a : Nat) : Byte := (s.mem.lookup a).getD (s.unwrittenByte a)

/-- `MemRead(a, n)` (00_scope.md R13). -/
def State.memRead (s : State) (a n : Nat) : Bytes := (List.range n).map fun i => s.readByte (a + i)

/-- `MemRead(a, n, 'BE')` (00_scope.md R13). -/
def State.memReadBE (s : State) (a n : Nat) : Nat := fromBE (s.memRead a n)

/-- `MemWrite(a, s)` (00_scope.md R13). -/
def State.memWrite (s : State) (a : Nat) (bs : Bytes) : State := { s with mem := s.mem.write a bs }

/-- Leave the bytes of the region `(a, n)` that lie in the buffer unspecified: one fresh free draw a
byte (40_common.md R152; log entries 6 and 11). -/
def State.drawRegion (s : State) (a n : Nat) : State :=
  let drawn := (List.range (min n (s.params.memBytes - a))).map fun i => Config.freeByte s.draws (a + i)
  { s with mem := s.mem.write a drawn, draws := s.draws + 1 }

/-! ### Fault codes and details (60_exceptions.md R320, R321) -/

/-- The fault codes of 60_exceptions.md R320. -/
inductive FaultCode where
  | illegalCommand
  | badParam
  | keyNotLoaded
  | addrRange
  | regionOverlap
  | dstOverflow
  | badSignature
  | truncatedChunk
  | missingRequiredChunk
  | corruptPixelData
  | badFilterType
  | lengthMismatch
  | keyInvalid
  deriving DecidableEq, Repr

/-- The number of a fault code (60_exceptions.md R320). -/
def FaultCode.num : FaultCode → Nat
  | .illegalCommand => 0x01
  | .badParam => 0x02
  | .keyNotLoaded => 0x03
  | .addrRange => 0x04
  | .regionOverlap => 0x05
  | .dstOverflow => 0x06
  | .badSignature => 0x07
  | .truncatedChunk => 0x08
  | .missingRequiredChunk => 0x09
  | .corruptPixelData => 0x0A
  | .badFilterType => 0x0B
  | .lengthMismatch => 0x0C
  | .keyInvalid => 0x0D

/-- `Fault(code, sub, index, offset, expected, actual)`; details not named are 0 (00_scope.md R14). -/
structure CmdFault where
  code : FaultCode
  sub : Nat := 0
  index : Nat := 0
  offset : Nat := 0
  expected : Nat := 0
  actual : Nat := 0
  deriving DecidableEq, Repr

/-- What the error report registers hold after a fault (60_exceptions.md R322; 40_common.md R155). -/
def CmdFault.report (f : CmdFault) : ErrorReport :=
  { code := word (f.code.num ||| (f.sub <<< 8))
    index := word f.index
    offset := word f.offset
    expected := sat32 f.expected
    actual := sat32 f.actual }

/-! ### Issue and completion -/

/-- Acceptance of a command word while Idle (40_common.md R141). -/
def accept (w : Word) (s : State) : State :=
  { s with
    lastCmd := w
    status := { s.status with done := false, err := false, blockGeN := false, dropNz := false }
    phase := .busy w }

/-- The success outcome, with OUT_LEN and OUT_EXT_LEN (40_common.md R146). STATUS.ERR stays as it is. -/
def complete (outLen outExtLen : Nat) (s : State) : State :=
  { s with
    out := { len := word outLen, extLen := word outExtLen }
    err := ErrorReport.zero
    status := { s.status with done := true }
    donePend := true
    phase := .idle }

/-- The fault outcome: THE way this device takes an exception (60_exceptions.md R322, R325). The code and
its detail go to the error report registers, the command completes, and the engine is Idle again.
No program counter, mode or stack is saved, and no return action exists (R325, R326): the next
accepted command clears STATUS.ERR (`accept`). RC_LOAD_KEY's faults also clear the key
(`clearKey`). -/
def takeFault (f : CmdFault) (s : State) : State :=
  { s with
    err := f.report
    out := { len := 0#32, extLen := 0#32 }
    status := { s.status with err := true, done := true }
    donePend := true
    phase := .idle }

/-- Clear the key registers, KEY_VALID and KEY_NARROW (43_cipher.md R263, R261). -/
def clearKey (s : State) : State :=
  { s with
    key := KeyRegs.zero
    status := { s.status with keyValid := false, keyNarrow := false } }

/-- The command rule template (40_common.md R147): the first failing check is the fault the command
reports; with none, the effect. -/
def runChecked (check : Option CmdFault) (effect : State → State) (s : State) :
    Host.Outcome State Fault Refusal :=
  match check with
  | some f => .next (takeFault f s)
  | none => .next (effect s)

end Sys2Proof.Machine
end

