-- ==== Sys2Proof/Syntax.lean ====
section
/-! DEFINITION. The 18 commands, one constructor a row of spec/opcode_table.json (30_encoding.md R113).
A command word carries no operand but MODE, and each MODE is a row of its own (R112), so no
constructor has an argument. -/

namespace Sys2Proof

/-- The commands of 30_encoding.md R113. -/
inductive Instr where
  | nop
  | frReadChunk
  | frParseDoc
  | frWriteChunkStored
  | frWriteChunkRecomp
  | frWriteChunkPlace
  | frCrcChunk
  | frWriteSig
  | sfDefilter
  | sfRefilterNone
  | rcLoadKey
  | rcEcbEnc
  | rcEcbDec
  | rcCfbEnc
  | rcCfbDec
  | rcModexpE
  | rcModexpD
  | rcClearKey
  deriving DecidableEq, Repr

/-- The functional units: framer, scanline filter, RSA cipher (00_scope.md R1). -/
inductive FuncUnit where
  | frm
  | sfu
  | rcu
  deriving DecidableEq, Repr

/-- The unit column of 30_encoding.md R113; NOP belongs to no unit (R114). -/
def Instr.unit : Instr → Option FuncUnit
  | .nop => none
  | .frReadChunk => some .frm
  | .frParseDoc => some .frm
  | .frWriteChunkStored => some .frm
  | .frWriteChunkRecomp => some .frm
  | .frWriteChunkPlace => some .frm
  | .frCrcChunk => some .frm
  | .frWriteSig => some .frm
  | .sfDefilter => some .sfu
  | .sfRefilterNone => some .sfu
  | .rcLoadKey => some .rcu
  | .rcEcbEnc => some .rcu
  | .rcEcbDec => some .rcu
  | .rcCfbEnc => some .rcu
  | .rcCfbDec => some .rcu
  | .rcModexpE => some .rcu
  | .rcModexpD => some .rcu
  | .rcClearKey => some .rcu

/-- Every command, in the order of 30_encoding.md R113. -/
def Instr.all : List Instr :=
  [.nop, .frReadChunk, .frParseDoc, .frWriteChunkStored, .frWriteChunkRecomp, .frWriteChunkPlace,
   .frCrcChunk, .frWriteSig, .sfDefilter, .sfRefilterNone, .rcLoadKey, .rcEcbEnc, .rcEcbDec,
   .rcCfbEnc, .rcCfbDec, .rcModexpE, .rcModexpD, .rcClearKey]

end Sys2Proof
end

