-- ==== Sys2Proof/Machine/Operands.lean ====
section
/-! DEFINITION. The operands: the regions each command reads and writes, the range and overlap checks
over them (20_memory.md R85 to R88), and the register-value and length checks the commands share. -/

namespace Sys2Proof.Machine

/-- Region ids (60_exceptions.md R321). -/
inductive RegionId where
  | src
  | dst
  | ext
  | key
  | iv
  deriving DecidableEq, Repr

/-- The number of a region id (60_exceptions.md R321). -/
def RegionId.num : RegionId → Nat
  | .src => 0
  | .dst => 1
  | .ext => 2
  | .key => 3
  | .iv => 4

/-- A region a command uses: its id, its address and length, and whether the command writes it (20_memory.md R85). -/
structure Region where
  id : RegionId
  addr : Nat
  len : Nat
  writes : Bool
  deriving DecidableEq, Repr

/-- In range: empty, or inside the buffer, the sum unbounded (20_memory.md R86). -/
def Region.inRange (r : Region) (memBytes : Nat) : Bool :=
  r.len == 0 || decide (r.addr + r.len ≤ memBytes)

/-- Overlap of two regions (20_memory.md R87). -/
def Region.overlaps (r q : Region) : Bool :=
  decide (0 < r.len) && decide (0 < q.len) && decide (r.addr < q.addr + q.len) &&
    decide (q.addr < r.addr + r.len)

/-! ### The regions of the commands -/

/-- B = ceil(KEY_BITS / 8), the byte width RC_LOAD_KEY reads with (43_cipher.md R261). -/
def loadWidth (s : State) : Nat := (s.cipher.keyBits.toNat + 7) / 8

/-- The read region SRC = (SRC_ADDR, SRC_LEN). -/
def srcRegion (s : State) : Region :=
  { id := .src, addr := s.operand.srcAddr.toNat, len := s.operand.srcLen.toNat, writes := false }

/-- The read region DATA = (SRC_ADDR, CH_LEN), reported as SRC (41_framer.md R185, R186; 90_conflicts.md C12). -/
def dataRegion (s : State) : Region :=
  { id := .src, addr := s.operand.srcAddr.toNat, len := s.framer.chLen.toNat, writes := false }

/-- The write region DST = (DST_ADDR, DST_LEN). -/
def dstRegion (s : State) : Region :=
  { id := .dst, addr := s.operand.dstAddr.toNat, len := s.operand.dstLen.toNat, writes := true }

/-- The side-channel region EXT = (EXT_ADDR, EXT_LEN), written by RC_ECB_ENC and read by RC_ECB_DEC (10_state.md R45). -/
def extRegion (writes : Bool) (s : State) : Region :=
  { id := .ext, addr := s.operand.extAddr.toNat, len := s.operand.extLen.toNat, writes := writes }

/-- The read region KEY = (KEY_ADDR, 3 B) (43_cipher.md R261). -/
def keyRegion (s : State) : Region :=
  { id := .key, addr := s.cipher.keyAddr.toNat, len := 3 * loadWidth s, writes := false }

/-- The read region IV = (IV_ADDR, B) (43_cipher.md R268). -/
def ivRegion (s : State) : Region :=
  { id := .iv, addr := s.cipher.ivAddr.toNat, len := s.key.kb, writes := false }

/-- The regions of a command, in the order the range check takes them: SRC, DST, EXT, KEY, IV
(20_memory.md R86). -/
def regions (i : Instr) (s : State) : List Region :=
  match i with
  | .nop => []
  | .frReadChunk => [srcRegion s]
  | .frParseDoc => [srcRegion s, dstRegion s]
  | .frWriteChunkStored => [dataRegion s, dstRegion s]
  | .frWriteChunkRecomp => [dataRegion s, dstRegion s]
  | .frWriteChunkPlace => [dataRegion s, dstRegion s]
  | .frCrcChunk => [dataRegion s]
  | .frWriteSig => [dstRegion s]
  | .sfDefilter => [srcRegion s, dstRegion s]
  | .sfRefilterNone => [srcRegion s, dstRegion s]
  | .rcLoadKey => [keyRegion s]
  | .rcEcbEnc => [srcRegion s, dstRegion s, extRegion true s]
  | .rcEcbDec => [srcRegion s, dstRegion s, extRegion false s]
  | .rcCfbEnc => [srcRegion s, dstRegion s, ivRegion s]
  | .rcCfbDec => [srcRegion s, dstRegion s, ivRegion s]
  | .rcModexpE => [srcRegion s, dstRegion s]
  | .rcModexpD => [srcRegion s, dstRegion s]
  | .rcClearKey => []

/-- The regions a command writes, each at its full capacity (20_memory.md R85). -/
def writeRegions (i : Instr) (s : State) : List Region := (regions i s).filter (·.writes)

/-! ### The region checks -/

/-- ADDR_RANGE on the first region that is not in range (20_memory.md R86; 60_exceptions.md R321). -/
def addrRangeFault (rs : List Region) (s : State) : Option CmdFault :=
  (rs.find? fun r => !r.inRange s.params.memBytes).map fun r =>
    { code := .addrRange, sub := r.id.num, expected := s.params.memBytes, actual := r.addr + r.len }

/-- The pairs in the order they are checked (20_memory.md R87; 60_exceptions.md R324; 90_conflicts.md C11). -/
def overlapOrder : List (RegionId × RegionId) :=
  [(.dst, .src), (.dst, .ext), (.dst, .iv), (.ext, .src)]

/-- The fault of one pair: the command has both regions, writes the first, and they overlap. -/
def pairFault (rs : List Region) (p : RegionId × RegionId) : Option CmdFault :=
  match rs.find? (fun r => r.id == p.1 && r.writes), rs.find? (fun r => r.id == p.2) with
  | some w, some o =>
    if w.overlaps o then
      some { code := .regionOverlap, sub := (p.1.num <<< 4) ||| p.2.num, expected := w.addr,
             actual := o.addr }
    else none
  | _, _ => none

/-- REGION_OVERLAP of the first overlapping pair (20_memory.md R87; 60_exceptions.md R321). -/
def regionOverlapFault (rs : List Region) : Option CmdFault := overlapOrder.findSome? (pairFault rs)

/-- The two region checks of a command, in their order (60_exceptions.md R324, points 5 and 6). -/
def regionFault (i : Instr) (s : State) : Option CmdFault :=
  addrRangeFault (regions i s) s <|> regionOverlapFault (regions i s)

/-! ### Checks shared by several commands -/

/-- DST_OVERFLOW of DST: `needed` bytes do not fit DST_LEN (60_exceptions.md R321). -/
def dstOverflowFault (needed : Nat) (s : State) : Option CmdFault :=
  if needed > s.operand.dstLen.toNat then
    some { code := .dstOverflow, sub := 1, expected := needed, actual := s.operand.dstLen.toNat }
  else none

/-- DST_OVERFLOW of EXT (43_cipher.md R266). -/
def extOverflowFault (needed : Nat) (s : State) : Option CmdFault :=
  if needed > s.operand.extLen.toNat then
    some { code := .dstOverflow, sub := 2, expected := needed, actual := s.operand.extLen.toNat }
  else none

/-- KEY_NOT_LOADED (43_cipher.md R265). -/
def keyNotLoadedFault (s : State) : Option CmdFault :=
  if s.status.keyValid then none else some { code := .keyNotLoaded, expected := 1 }

/-- BAD_PARAM on BPP (42_filter.md R221). -/
def bppFault (s : State) : Option CmdFault :=
  let bpp := s.filter.bpp.toNat
  if 1 ≤ bpp ∧ bpp ≤ 4 then none
  else some { code := .badParam, sub := 1, expected := 4, actual := bpp }

end Sys2Proof.Machine
end

