-- ==== Sys2Proof/Machine/Filter.lean ====
section
/-! DEFINITION. The scanline filter unit's commands (42_filter.md): defiltering a decompressed stream,
and refiltering raw bytes with type None. The predictors are the spec's from general knowledge
(93_implementation_defined.md G2; log entry 13). -/

namespace Sys2Proof.Machine

/-! ### Geometry (42_filter.md R220) -/

/-- R = WIDTH * BPP, the pixel bytes of a row. -/
def State.rowBytes (s : State) : Nat := s.filter.width.toNat * s.filter.bpp.toNat

/-- stride = R + 1, the filter-type byte and the row. -/
def State.stride (s : State) : Nat := s.rowBytes + 1

/-- HEIGHT. -/
def State.rows (s : State) : Nat := s.filter.height.toNat

/-- F = HEIGHT * stride, the filtered length. -/
def State.filteredLen (s : State) : Nat := s.rows * s.stride

/-- P = HEIGHT * R, the raw length. -/
def State.rawLen (s : State) : Nat := s.rows * s.rowBytes

/-! ### Predictors and reconstruction -/

/-- The Paeth predictor; the distances are integers (42_filter.md R228; 90_conflicts.md C1). -/
def paethPredictor (a b c : Nat) : Nat :=
  let p : Int := (a : Int) + (b : Int) - (c : Int)
  let pa := (p - a).natAbs
  let pb := (p - b).natAbs
  let pc := (p - c).natAbs
  if pa ≤ pb ∧ pa ≤ pc then a else if pb ≤ pc then b else c

/-- The predictor of a filter type: None, Sub, Up, Average, Paeth (42_filter.md R224 to R228). The sum
of Average is not reduced (R222; 90_conflicts.md C2). Types above 4 never reach it (R230). -/
def predictor (type a b c : Nat) : Nat :=
  match type with
  | 0 => 0
  | 1 => a
  | 2 => b
  | 3 => (a + b) / 2
  | _ => paethPredictor a b c

/-- A reconstructed byte: (filt + predictor) mod 256 (42_filter.md R222). -/
def reconByte (type : Nat) (filt a b c : Byte) : Byte :=
  BitVec.ofNat 8 (filt.toNat + predictor type a.toNat b.toNat c.toNat)

/-- The byte `bpp` places before column `x` of a row, 0 left of the row (42_filter.md R223). -/
def leftByte (bpp : Nat) (row : Bytes) (x : Nat) : Byte := if bpp ≤ x then row.getD (x - bpp) 0#8 else 0#8

/-- Reconstruct a row, left to right: `above` is the reconstructed row above, empty for row 0, and
`done` what is reconstructed of this row so far (42_filter.md R223, R229). -/
def reconRow (type bpp : Nat) (above : Bytes) : Bytes → Bytes → Bytes
  | done, [] => done
  | done, filt :: rest =>
    let x := done.length
    let byte := reconByte type filt (leftByte bpp done x) (above.getD x 0#8) (leftByte bpp above x)
    reconRow type bpp above (done ++ [byte]) rest

/-- Defilter `n` rows of `r` pixel bytes each, top to bottom (42_filter.md R229). -/
def defilterRows (bpp r : Nat) : Nat → Bytes → Bytes → Bytes
  | 0, _, _ => []
  | n + 1, above, stream =>
    let type := (stream.headD 0#8).toNat
    let row := reconRow type bpp above [] ((stream.drop 1).take r)
    row ++ defilterRows bpp r n row (stream.drop (r + 1))

/-- Refilter `n` rows of `r` bytes each with type None (42_filter.md R231). -/
def refilterRows (r : Nat) : Nat → Bytes → Bytes
  | 0, _ => []
  | n + 1, raw => 0#8 :: (raw.take r ++ refilterRows r n (raw.drop r))

/-! ### The commands -/

/-- The bytes of SRC. -/
def State.srcBytes (s : State) : Bytes := s.memRead s.operand.srcAddr.toNat s.operand.srcLen.toNat

/-- CORRUPT_PIXEL_DATA (42_filter.md R229, check 4). -/
def pixelDataFault (s : State) : Option CmdFault :=
  if s.operand.srcLen.toNat ≠ s.filteredLen then
    some { code := .corruptPixelData, expected := s.filteredLen, actual := s.operand.srcLen.toNat }
  else none

/-- BAD_FILTER_TYPE of the first row whose filter-type byte is above 4, checked for every row before any
byte is written (42_filter.md R230). -/
def filterTypeFault (s : State) : Option CmdFault :=
  (List.range s.rows).findSome? fun y =>
    let f := (s.readByte (s.operand.srcAddr.toNat + y * s.stride)).toNat
    if f > 4 then
      some { code := .badFilterType, index := y, offset := y * s.stride, expected := 4, actual := f }
    else none

/-- LENGTH_MISMATCH of SF_REFILTER_NONE (42_filter.md R231, check 4). -/
def rawLengthFault (s : State) : Option CmdFault :=
  if s.operand.srcLen.toNat ≠ s.rawLen then
    some { code := .lengthMismatch, sub := 3, expected := s.rawLen, actual := s.operand.srcLen.toNat }
  else none

/-- SF_DEFILTER (42_filter.md R229, R230). -/
def execSfDefilter (s : State) : Host.Outcome State Fault Refusal :=
  runChecked
    (bppFault s <|> regionFault .sfDefilter s <|> pixelDataFault s <|> dstOverflowFault s.rawLen s <|>
      filterTypeFault s)
    (fun s =>
      complete s.rawLen 0
        (s.memWrite s.operand.dstAddr.toNat
          (defilterRows s.filter.bpp.toNat s.rowBytes s.rows [] s.srcBytes)))
    s

/-- SF_REFILTER_NONE (42_filter.md R231). -/
def execSfRefilterNone (s : State) : Host.Outcome State Fault Refusal :=
  runChecked
    (bppFault s <|> regionFault .sfRefilterNone s <|> rawLengthFault s <|>
      dstOverflowFault s.filteredLen s)
    (fun s =>
      complete s.filteredLen 0
        (s.memWrite s.operand.dstAddr.toNat (refilterRows s.rowBytes s.rows s.srcBytes)))
    s

end Sys2Proof.Machine
end

