-- ==== Sys2Proof/Machine/Flags.lean ====
section
/-! DEFINITION. The flags: the STATUS word, the interrupt output, and what the commands compute into
STATUS and DOC_FLAGS. -/

namespace Sys2Proof.Machine

/-- A flag as bit `k` of a register. -/
def flagBit (k : Nat) (b : Bool) : Word := (BitVec.ofBool b).setWidth 32 <<< k

/-- STATUS.BUSY is 1 exactly while the phase is Busy (10_state.md R26). -/
def State.busy (s : State) : Bool :=
  match s.phase with
  | .idle => false
  | .busy _ => true

/-- The STATUS register as it reads (10_state.md R25); bits 31..10 read 0. -/
def State.statusWord (s : State) : Word :=
  flagBit 0 s.busy ||| flagBit 1 s.status.done ||| flagBit 2 s.status.err |||
  flagBit 3 s.status.keyValid ||| flagBit 4 s.status.crcMatch ||| flagBit 5 s.status.keyNarrow |||
  flagBit 6 s.status.blockGeN ||| flagBit 7 s.status.dropNz ||| flagBit 8 s.status.busyWrite |||
  flagBit 9 s.status.bufBlocked

/-- The interrupt output, a level (10_state.md R68; 60_exceptions.md R328). -/
def State.irq (s : State) : Bool := s.irqEn && s.donePend

/-- CTRL as it reads: IRQ_EN; SOFT_RESET, CLR_STICKY and the reserved bits read 0 (10_state.md R41). -/
def State.ctrlWord (s : State) : Word := flagBit 0 s.irqEn

/-- IRQ_STATUS as it reads (10_state.md R42). -/
def State.irqStatusWord (s : State) : Word := flagBit 0 s.donePend

/-- Write STATUS.CRC_MATCH (10_state.md R30). -/
def State.setCrcMatch (s : State) (b : Bool) : State :=
  { s with status := { s.status with crcMatch := b } }

/-- STATUS.KEY_NARROW of a modulus `n` of byte width `b` (43_cipher.md R261, R262). -/
def keyNarrowFlag (n b : Nat) : Bool := decide (n < 2 ^ (8 * (b - 1)))

/-- Set STATUS.BLOCK_GE_N when one of the block values is at least the modulus; otherwise it stays
(10_state.md R32; 43_cipher.md R266, R267, R271). -/
def State.noteBlocks (s : State) (blocks : List Nat) : State :=
  { s with status := { s.status with
      blockGeN := s.status.blockGeN || blocks.any (fun x => decide (s.key.kn ≤ x)) } }

/-- Set STATUS.DROP_NZ when a discarded byte is nonzero; otherwise it stays (10_state.md R33;
43_cipher.md R267). -/
def State.noteDropped (s : State) (dropped : Bytes) : State :=
  { s with status := { s.status with dropNz := s.status.dropNz || dropped.any (fun b => b != 0#8) } }

/-! ### DOC_FLAGS (41_framer.md R183) -/

/-- "IHDR" (41_framer.md R182). -/
def tagIHDR : Bytes := [0x49#8, 0x48#8, 0x44#8, 0x52#8]

/-- "PLTE". -/
def tagPLTE : Bytes := [0x50#8, 0x4C#8, 0x54#8, 0x45#8]

/-- "IDAT". -/
def tagIDAT : Bytes := [0x49#8, 0x44#8, 0x41#8, 0x54#8]

/-- "IEND" (41_framer.md R179). -/
def tagIEND : Bytes := [0x49#8, 0x45#8, 0x4E#8, 0x44#8]

/-- The places of a tag are consecutive: after the first run of it, it does not occur again. -/
def tagContiguous (tag : Bytes) (types : List Bytes) : Bool :=
  ((types.dropWhile (· != tag)).dropWhile (· == tag)).all (· != tag)

/-- The DOC_FLAGS of the framed chunks' types and lengths, and of the count of stored CRCs that differ
(41_framer.md R183). -/
def docFlags (types : List Bytes) (lens : List Nat) (bad : Nat) : Word :=
  flagBit 0 (types.head? == some tagIHDR) |||
  flagBit 1 (types.count tagIHDR == 1) |||
  flagBit 2 (decide (1 ≤ types.count tagPLTE)) |||
  flagBit 3 (decide (2 ≤ types.count tagPLTE)) |||
  flagBit 4 (decide (1 ≤ types.count tagIDAT)) |||
  flagBit 5 (decide (1 ≤ types.count tagIDAT) && tagContiguous tagIDAT types) |||
  flagBit 6 (lens.getLastD 0 != 0) |||
  flagBit 7 (bad == 0)

end Sys2Proof.Machine
end

