-- ==== Sys2Proof/Machine/Cipher.lean ====
section
/-! DEFINITION. The RSA cipher unit's commands (43_cipher.md): loading and clearing the key, ECB and CFB
streams, single-block exponentiation. -/

namespace Sys2Proof.Machine

/-! ### Arithmetic -/

/-- Square and multiply on the bits of `y`, least significant first, one a unit of fuel. -/
def powmodLoop (n : Nat) : Nat → Nat → Nat → Nat → Nat
  | 0, _, _, acc => acc
  | fuel + 1, x, y, acc =>
    powmodLoop n fuel (x * x % n) (y / 2) (if y % 2 = 1 then acc * x % n else acc)

/-- `powmod(x, y, n)`, which is `x ^ y mod n` (00_scope.md R15), computed by square and multiply so that
keys of full size can be evaluated. -/
def powmod (x y n : Nat) : Nat := powmodLoop n (y.log2 + 1) (x % n) y (1 % n)

/-- `ceil(l / u)`. -/
def ceilDiv (l u : Nat) : Nat := (l + u - 1) / u

/-- RSA_E (43_cipher.md R264). -/
def KeyRegs.rsaE (k : KeyRegs) (x : Nat) : Nat := powmod x k.ke k.kn

/-- RSA_D (43_cipher.md R264). -/
def KeyRegs.rsaD (k : KeyRegs) (x : Nat) : Nat := powmod x k.kd k.kn

/-- U = B - 1, the usable plaintext block size (43_cipher.md R260). -/
def KeyRegs.ku (k : KeyRegs) : Nat := k.kb - 1

/-- Block `i` of a stream cut into blocks of `u` bytes; the last may be shorter (43_cipher.md R265). -/
def blockOf (u i : Nat) (stream : Bytes) : Bytes := (stream.drop (i * u)).take u

/-- Bytewise XOR, as long as the shorter (43_cipher.md R269). -/
def xorBytes (p q : Bytes) : Bytes := List.zipWith (· ^^^ ·) p q

/-! ### The key (43_cipher.md R261 to R263) -/

/-- N, e or d of the key image: part `j` of three of B bytes each. -/
def State.keyPart (s : State) (j : Nat) : Nat :=
  s.memReadBE (s.cipher.keyAddr.toNat + j * loadWidth s) (loadWidth s)

/-- BAD_PARAM on KEY_BITS (43_cipher.md R261, check 1). -/
def keyBitsFault (s : State) : Option CmdFault :=
  let bits := s.cipher.keyBits.toNat
  if bits < 9 ∨ bits > s.params.kmaxBits then
    some { code := .badParam, sub := 2, expected := s.params.kmaxBits, actual := bits }
  else none

/-- KEY_INVALID: the modulus is 0 (43_cipher.md R261, check 3). -/
def keyInvalidFault (s : State) : Option CmdFault :=
  if s.keyPart 0 = 0 then some { code := .keyInvalid, expected := 1 } else none

/-- What RC_LOAD_KEY writes (43_cipher.md R261, R262). -/
def loadKeyEffect (s : State) : State :=
  complete 0 0
    { s with
      key := { kn := s.keyPart 0, ke := s.keyPart 1, kd := s.keyPart 2, kb := loadWidth s }
      status := { s.status with
        keyValid := true
        keyNarrow := keyNarrowFlag (s.keyPart 0) (loadWidth s) } }

/-- RC_LOAD_KEY; any fault of it also clears the key (43_cipher.md R261; 60_exceptions.md R322). -/
def execRcLoadKey (s : State) : Host.Outcome State Fault Refusal :=
  match keyBitsFault s <|> regionFault .rcLoadKey s <|> keyInvalidFault s with
  | some f => .next (takeFault f (clearKey s))
  | none => .next (loadKeyEffect s)

/-- RC_CLEAR_KEY (43_cipher.md R263). -/
def execRcClearKey (s : State) : Host.Outcome State Fault Refusal := .next (complete 0 0 (clearKey s))

/-! ### Streams -/

/-- The preamble of the four stream commands: the key check, the zero-length no-op, then the
remaining checks and the effect (43_cipher.md R265, R274; 60_exceptions.md R324). -/
def runStream (check : State → Option CmdFault) (effect : State → State) (s : State) :
    Host.Outcome State Fault Refusal :=
  match keyNotLoadedFault s with
  | some f => .next (takeFault f s)
  | none =>
    if s.operand.srcLen.toNat = 0 then .next (complete 0 0 s) else runChecked (check s) effect s

/-- The number of blocks of U bytes in SRC (43_cipher.md R265). -/
def State.blockCount (s : State) : Nat := ceilDiv s.operand.srcLen.toNat s.key.ku

/-- The plaintext block values of RC_ECB_ENC (43_cipher.md R266). -/
def ecbPlainValues (k : KeyRegs) (n : Nat) (plain : Bytes) : List Nat :=
  (List.range n).map fun i => fromBE (blockOf k.ku i plain)

/-- The encrypted blocks, B bytes each (43_cipher.md R266). -/
def ecbCipherBlocks (k : KeyRegs) (n : Nat) (plain : Bytes) : List Bytes :=
  (ecbPlainValues k n plain).map fun m => beBytes k.kb (k.rsaE m)

/-- The checks of RC_ECB_ENC after the preamble (43_cipher.md R266). -/
def ecbEncFault (s : State) : Option CmdFault :=
  regionFault .rcEcbEnc s <|> dstOverflowFault (s.key.ku * s.blockCount) s <|>
    extOverflowFault s.blockCount s

/-- What RC_ECB_ENC writes: the first U bytes of each block to DST, the overflow bytes to EXT
(43_cipher.md R266). -/
def ecbEncEffect (s : State) : State :=
  let k := s.blockCount
  let u := s.key.ku
  let blocks := ecbCipherBlocks s.key k s.srcBytes
  let s1 := s.noteBlocks (ecbPlainValues s.key k s.srcBytes)
  let s2 := s1.memWrite s.operand.dstAddr.toNat (blocks.flatMap fun cb => cb.take u)
  let s3 := s2.memWrite s.operand.extAddr.toNat (blocks.flatMap fun cb => cb.drop u)
  complete (u * k) k s3

/-- RC_ECB_ENC (43_cipher.md R266). -/
def execRcEcbEnc (s : State) : Host.Outcome State Fault Refusal := runStream ecbEncFault ecbEncEffect s

/-- The length checks of RC_ECB_DEC, in sub-code order (43_cipher.md R267, checks 5 to 7). -/
def ecbDecLengthFault (s : State) : Option CmdFault :=
  let n := s.operand.srcLen.toNat
  let u := s.key.ku
  let k := n / u
  let l := s.cipher.plainLen.toNat
  if n % u ≠ 0 then
    some { code := .lengthMismatch, sub := 0, expected := u * ceilDiv n u, actual := n }
  else if l ≤ u * (k - 1) ∨ l > u * k then
    some { code := .lengthMismatch, sub := 1, expected := u * k, actual := l }
  else if s.operand.extLen.toNat ≠ k then
    some { code := .lengthMismatch, sub := 2, expected := k, actual := s.operand.extLen.toNat }
  else none

/-- The checks of RC_ECB_DEC after the preamble (43_cipher.md R267). -/
def ecbDecFault (s : State) : Option CmdFault :=
  regionFault .rcEcbDec s <|> ecbDecLengthFault s <|> dstOverflowFault s.cipher.plainLen.toNat s

/-- The reassembled block values of RC_ECB_DEC: U main bytes and one overflow byte (43_cipher.md R267). -/
def ecbCipherValues (k : KeyRegs) (n : Nat) (main extra : Bytes) : List Nat :=
  (List.range n).map fun i => fromBE (blockOf k.ku i main ++ blockOf 1 i extra)

/-- The decrypted blocks with the number of low bytes that block `i` of a plaintext of `l` bytes keeps
(43_cipher.md R267). -/
def ecbPlainBlocks (k : KeyRegs) (l : Nat) (values : List Nat) : List (Nat × Bytes) :=
  values.mapIdx fun i c => (min k.ku (l - i * k.ku), beBytes k.kb (k.rsaD c))

/-- What RC_ECB_DEC writes (43_cipher.md R267). -/
def ecbDecEffect (s : State) : State :=
  let l := s.cipher.plainLen.toNat
  let k := s.operand.srcLen.toNat / s.key.ku
  let values := ecbCipherValues s.key k s.srcBytes (s.memRead s.operand.extAddr.toNat k)
  let blocks := ecbPlainBlocks s.key l values
  let s1 := (s.noteBlocks values).noteDropped
    (blocks.flatMap fun p => p.2.take (s.key.kb - p.1))
  let s2 := s1.memWrite s.operand.dstAddr.toNat
    (blocks.flatMap fun p => p.2.drop (s.key.kb - p.1))
  complete l 0 s2

/-- RC_ECB_DEC (43_cipher.md R267). -/
def execRcEcbDec (s : State) : Host.Outcome State Fault Refusal := runStream ecbDecFault ecbDecEffect s

/-- The keystream of a segment: BE_B(RSA_E(FB)) (43_cipher.md R268). -/
def cfbKeystream (k : KeyRegs) (fb : Nat) : Bytes := beBytes k.kb (k.rsaE fb)

/-- `n` segments of CFB encryption with feedback register `fb`: each ciphertext segment becomes the next
feedback value (43_cipher.md R269). -/
def cfbEncSegments (k : KeyRegs) : Nat → Nat → Bytes → Bytes
  | 0, _, _ => []
  | n + 1, fb, plain =>
    let c := xorBytes (plain.take k.kb) (cfbKeystream k fb)
    c ++ cfbEncSegments k n (fromBE c) (plain.drop k.kb)

/-- `n` segments of CFB decryption: the same keystream, and the ciphertext read feeds back
(43_cipher.md R270). -/
def cfbDecSegments (k : KeyRegs) : Nat → Nat → Bytes → Bytes
  | 0, _, _ => []
  | n + 1, fb, cipher =>
    let c := cipher.take k.kb
    xorBytes c (cfbKeystream k fb) ++ cfbDecSegments k n (fromBE c) (cipher.drop k.kb)

/-- The first feedback value: the IV, big-endian (43_cipher.md R268). -/
def State.ivValue (s : State) : Nat := s.memReadBE s.cipher.ivAddr.toNat s.key.kb

/-- The checks of the CFB commands after the preamble (43_cipher.md R269, R270). -/
def cfbFault (i : Instr) (s : State) : Option CmdFault :=
  regionFault i s <|> dstOverflowFault s.operand.srcLen.toNat s

/-- What a CFB command writes: the output of its segments over the SRC bytes (43_cipher.md R269, R270). -/
def cfbEffect (segments : KeyRegs → Nat → Nat → Bytes → Bytes) (s : State) : State :=
  let l := s.operand.srcLen.toNat
  complete l 0
    (s.memWrite s.operand.dstAddr.toNat
      (segments s.key (ceilDiv l s.key.kb) s.ivValue s.srcBytes))

/-- RC_CFB_ENC (43_cipher.md R269). -/
def execRcCfbEnc (s : State) : Host.Outcome State Fault Refusal :=
  runStream (cfbFault .rcCfbEnc) (cfbEffect cfbEncSegments) s

/-- RC_CFB_DEC (43_cipher.md R270). -/
def execRcCfbDec (s : State) : Host.Outcome State Fault Refusal :=
  runStream (cfbFault .rcCfbDec) (cfbEffect cfbDecSegments) s

/-! ### Single-block exponentiation (43_cipher.md R271) -/

/-- BAD_PARAM: SRC_LEN is not 1 to B. -/
def blockLenFault (s : State) : Option CmdFault :=
  let n := s.operand.srcLen.toNat
  if n = 0 ∨ n > s.key.kb then
    some { code := .badParam, sub := 3, expected := s.key.kb, actual := n }
  else none

/-- The checks of RC_MODEXP, in their order. -/
def modexpFault (i : Instr) (s : State) : Option CmdFault :=
  keyNotLoadedFault s <|> blockLenFault s <|> regionFault i s <|> dstOverflowFault s.key.kb s

/-- What RC_MODEXP writes with the exponent `y`. -/
def modexpEffect (y : Nat) (s : State) : State :=
  let x := fromBE s.srcBytes
  complete s.key.kb 0
    ((s.noteBlocks [x]).memWrite s.operand.dstAddr.toNat (beBytes s.key.kb (powmod x y s.key.kn)))

/-- RC_MODEXP.E: the exponent is KE. -/
def execRcModexpE (s : State) : Host.Outcome State Fault Refusal :=
  runChecked (modexpFault .rcModexpE s) (modexpEffect s.key.ke) s

/-- RC_MODEXP.D: the exponent is KD. -/
def execRcModexpD (s : State) : Host.Outcome State Fault Refusal :=
  runChecked (modexpFault .rcModexpD s) (modexpEffect s.key.kd) s

end Sys2Proof.Machine
end

