-- ==== Sys2Proof/Machine/Control.lean ====
section
/-! DEFINITION. The command that belongs to no unit: NOP (40_common.md R149). A word that is no command
is in Engine.lean (R150). -/

namespace Sys2Proof.Machine

/-- NOP: no operand, no check, no effect; it completes with success (40_common.md R149). -/
def execNop (s : State) : Host.Outcome State Fault Refusal := .next (complete 0 0 s)

end Sys2Proof.Machine
end

