-- ==== Sys2Proof/Machine/Crc.lean ====
section
/-! DEFINITION. CRC-32 as 41_framer.md R170 computes it. The polynomial and the reflected order are the
source's; the initial value and the final XOR are the spec's from general knowledge
(93_implementation_defined.md G1; log entry 13). -/

namespace Sys2Proof.Machine

/-- One bit step: shift right, and XOR the polynomial when the bit shifted out was 1 (41_framer.md R170). -/
def crcBit (c : Word) : Word :=
  if c.getLsbD 0 then (c >>> 1) ^^^ 0xEDB88320#32 else c >>> 1

/-- One byte: XOR it in, then 8 bit steps (41_framer.md R170). -/
def crcByte (c : Word) (b : Byte) : Word := crcBit^[8] (c ^^^ b.setWidth 32)

/-- `crc32(s)` (41_framer.md R170). -/
def crc32 (s : Bytes) : Word := s.foldl crcByte 0xFFFFFFFF#32 ^^^ 0xFFFFFFFF#32

end Sys2Proof.Machine
end

