-- ==== Sys2Proof/Machine/Framer.lean ====
section
/-! DEFINITION. The framer unit's commands (41_framer.md): reading one chunk record, parsing a whole
stream, writing a record, the CRC of a chunk, the signature. -/

namespace Sys2Proof.Machine

/-- The 8 signature bytes (41_framer.md R177). -/
def signature : Bytes := [0x89#8, 0x50#8, 0x4E#8, 0x47#8, 0x0D#8, 0x0A#8, 0x1A#8, 0x0A#8]

/-- The bytes of a chunk record: length, type, data, CRC (41_framer.md R172, R185). -/
def recordBytes (type data : Bytes) (crc : Word) : Bytes :=
  beBytes 4 data.length ++ (type ++ (data ++ beBytes 4 crc.toNat))

/-! ### Reading one record -/

/-- What the framer takes from one record: its offset in SRC, length, type bytes, stored CRC and the
CRC computed over type and data (41_framer.md R173, R178). -/
structure Chunk where
  pos : Nat
  len : Nat
  type : Bytes
  crc : Word
  computed : Word
  deriving DecidableEq, Repr

/-- The length field of the record at offset `c` of SRC. -/
def State.lengthField (s : State) (c : Nat) : Nat := s.memReadBE (s.operand.srcAddr.toNat + c) 4

/-- Frame the record at offset `c` of SRC (41_framer.md R172, R173). -/
def State.chunkAt (s : State) (c : Nat) : Chunk :=
  let base := s.operand.srcAddr.toNat + c
  let len := s.lengthField c
  let type := s.memRead (base + 4) 4
  { pos := c
    len := len
    type := type
    crc := word (s.memReadBE (base + 8 + len) 4)
    computed := crc32 (type ++ s.memRead (base + 8) len) }

/-- The truncation checks of a record at offset `c <= SRC_LEN`, with chunk index `i`, in field order
(41_framer.md R174). -/
def truncationFault (s : State) (i c : Nat) : Option CmdFault :=
  let r := s.operand.srcLen.toNat - c
  let fault (sub expected actual : Nat) : CmdFault :=
    { code := .truncatedChunk, sub := sub, index := i, offset := c, expected := expected,
      actual := actual }
  if r < 4 then some (fault 0 4 r)
  else if r - 4 < 4 then some (fault 1 4 (r - 4))
  else if r - 8 < s.lengthField c then some (fault 2 (s.lengthField c) (r - 8))
  else if r - 8 - s.lengthField c < 4 then some (fault 3 4 (r - 8 - s.lengthField c))
  else none

/-- BAD_PARAM: the cursor is past the stream (41_framer.md R173, check 1). -/
def cursorFault (s : State) : Option CmdFault :=
  if s.framer.cursor.toNat > s.operand.srcLen.toNat then
    some { code := .badParam, sub := 0, expected := s.operand.srcLen.toNat,
           actual := s.framer.cursor.toNat }
  else none

/-- What FR_READ_CHUNK writes (41_framer.md R173). -/
def readChunkEffect (s : State) : State :=
  let c := s.framer.cursor.toNat
  let k := s.chunkAt c
  complete 0 0
    { s.setCrcMatch (k.crc == k.computed) with
      framer := { s.framer with
        chLen := word k.len
        chType := word (fromBE k.type)
        chCrc := k.crc
        chCrcCalc := k.computed
        chDataAddr := word (s.operand.srcAddr.toNat + c + 8)
        cursor := word (c + 12 + k.len) } }

/-- FR_READ_CHUNK (41_framer.md R173, R174, R175). -/
def execFrReadChunk (s : State) : Host.Outcome State Fault Refusal :=
  runChecked
    (cursorFault s <|> regionFault .frReadChunk s <|> truncationFault s 0 s.framer.cursor.toNat)
    readChunkEffect s

/-! ### Parsing a stream -/

/-- The signature check; the first mismatching byte is reported (41_framer.md R177). -/
def signatureFault (s : State) : Option CmdFault :=
  if s.operand.srcLen.toNat < 8 then
    some { code := .badSignature, sub := 0, expected := 8, actual := s.operand.srcLen.toNat }
  else
    (List.range 8).findSome? fun j =>
      let want := signature.getD j 0#8
      let got := s.readByte (s.operand.srcAddr.toNat + j)
      if got = want then none
      else some { code := .badSignature, sub := 1, offset := j, expected := want.toNat,
                  actual := got.toNat }

/-- No IEND before the end of the stream (41_framer.md R181). -/
def missingIend (i pos : Nat) : CmdFault :=
  { code := .missingRequiredChunk, sub := 1, index := i, offset := pos, expected := 0x49454E44 }

/-- No IHDR among the framed chunks (41_framer.md R182). -/
def missingIhdr (i : Nat) : CmdFault :=
  { code := .missingRequiredChunk, sub := 0, index := i, expected := 0x49484452 }

/-- The next descriptor does not fit the table (41_framer.md R178). -/
def tableOverflow (s : State) (i pos : Nat) : CmdFault :=
  { code := .dstOverflow, sub := 1, index := i, offset := pos, expected := 16 * (i + 1),
    actual := s.operand.dstLen.toNat }

/-- The chunk loop from offset `pos` with the chunks framed so far (41_framer.md R178, R179). Each
round takes at least 12 bytes of SRC, so a fuel above SRC_LEN is never used up: the loop ends by its
own rules. It reads SRC as it was at the start, which DST does not overlap (log entry 14). -/
def parseLoop (s : State) : Nat → Nat → List Chunk → Except CmdFault (List Chunk)
  | 0, pos, ks => .error (missingIend ks.length pos)
  | fuel + 1, pos, ks =>
    if pos = s.operand.srcLen.toNat then .error (missingIend ks.length pos)
    else
      match truncationFault s ks.length pos with
      | some f => .error f
      | none =>
        let k := s.chunkAt pos
        if 16 * (ks.length + 1) > s.operand.dstLen.toNat then .error (tableOverflow s ks.length pos)
        else if k.type = tagIEND then .ok (ks ++ [k])
        else parseLoop s fuel (pos + 12 + k.len) (ks ++ [k])

/-- The records of the stream after its signature (41_framer.md R178). -/
def parseChunks (s : State) : Except CmdFault (List Chunk) :=
  parseLoop s (s.operand.srcLen.toNat + 1) 8 []

/-- After the loop, an IHDR must be among the chunks (41_framer.md R182). -/
def requireIhdr (ks : List Chunk) : Except CmdFault (List Chunk) :=
  if ks.any (fun k => k.type == tagIHDR) then .ok ks else .error (missingIhdr ks.length)

/-- The 16 bytes of a descriptor (41_framer.md R180; 20_memory.md R91). -/
def descriptorBytes (k : Chunk) : Bytes :=
  leBytes 4 k.pos ++ (leBytes 4 k.len ++ (k.type ++ leBytes 4 k.crc.toNat))

/-- The offset after the last framed record (41_framer.md R178). -/
def endOffset (ks : List Chunk) : Nat :=
  match ks.getLast? with
  | some k => k.pos + 12 + k.len
  | none => 8

/-- How many chunks have a stored CRC that differs from the computed one (41_framer.md R178). -/
def badCrcCount (ks : List Chunk) : Nat := ks.countP (fun k => k.crc != k.computed)

/-- What FR_PARSE_DOC writes when it succeeds (41_framer.md R180, R183, R184). -/
def parseDocEffect (ks : List Chunk) (s : State) : State :=
  let bad := badCrcCount ks
  let s := s.memWrite s.operand.dstAddr.toNat (ks.flatMap descriptorBytes)
  complete (16 * ks.length) 0
    { s.setCrcMatch (bad == 0) with
      framer := { s.framer with
        docNchunks := word ks.length
        docTrailOff := word (endOffset ks)
        docTrailLen := word (s.operand.srcLen.toNat - endOffset ks)
        docFlags := docFlags (ks.map (·.type)) (ks.map (·.len)) bad
        docCrcBad := word bad } }

/-- An execution fault of FR_PARSE_DOC: the bytes of DST are unspecified, and the fault outcome
(60_exceptions.md R322). -/
def parseDocFault (f : CmdFault) (s : State) : State :=
  takeFault f (s.drawRegion s.operand.dstAddr.toNat s.operand.dstLen.toNat)

/-- FR_PARSE_DOC after its validation checks (41_framer.md R178 to R184). -/
def parseDocRun (s : State) : State :=
  match parseChunks s with
  | .error f => parseDocFault f s
  | .ok ks =>
    match requireIhdr ks with
    | .error f => parseDocFault f s
    | .ok ks => parseDocEffect ks s

/-- FR_PARSE_DOC (41_framer.md R176). -/
def execFrParseDoc (s : State) : Host.Outcome State Fault Refusal :=
  runChecked (regionFault .frParseDoc s <|> signatureFault s) parseDocRun s

/-! ### Serialisation and CRC -/

/-- The type bytes BE_4(CH_TYPE) (10_state.md R49). -/
def State.typeBytes (s : State) : Bytes := beBytes 4 s.framer.chType.toNat

/-- The data bytes of DATA = (SRC_ADDR, CH_LEN) (41_framer.md R185, R186). -/
def State.dataBytes (s : State) : Bytes := s.memRead s.operand.srcAddr.toNat s.framer.chLen.toNat

/-- The CRC-32 of the chunk that CH_TYPE and DATA give (41_framer.md R185, R186). -/
def State.chunkCrc (s : State) : Word := crc32 (s.typeBytes ++ s.dataBytes)

/-- The checks of FR_WRITE_CHUNK (41_framer.md R185). -/
def writeChunkFault (i : Instr) (s : State) : Option CmdFault :=
  regionFault i s <|> dstOverflowFault (12 + s.framer.chLen.toNat) s

/-- Write the record with the given CRC field (41_framer.md R185). -/
def writeRecord (crc : Word) (s : State) : State :=
  complete (12 + s.framer.chLen.toNat) 0
    (s.memWrite s.operand.dstAddr.toNat (recordBytes s.typeBytes s.dataBytes crc))

/-- FR_WRITE_CHUNK.STORED: the CRC field is CH_CRC (41_framer.md R185). -/
def execFrWriteChunkStored (s : State) : Host.Outcome State Fault Refusal :=
  runChecked (writeChunkFault .frWriteChunkStored s) (fun s => writeRecord s.framer.chCrc s) s

/-- FR_WRITE_CHUNK.RECOMP: the CRC field is recomputed, and CH_CRC_CALC holds it (41_framer.md R185). -/
def execFrWriteChunkRecomp (s : State) : Host.Outcome State Fault Refusal :=
  runChecked (writeChunkFault .frWriteChunkRecomp s)
    (fun s =>
      let crc := s.chunkCrc
      writeRecord crc { s with framer := { s.framer with chCrcCalc := crc } })
    s

/-- FR_WRITE_CHUNK.PLACE: the CRC field is CRC_PLACEHOLDER (41_framer.md R185). -/
def execFrWriteChunkPlace (s : State) : Host.Outcome State Fault Refusal :=
  runChecked (writeChunkFault .frWriteChunkPlace s)
    (fun s => writeRecord s.framer.crcPlaceholder s) s

/-- FR_CRC_CHUNK (41_framer.md R186). -/
def execFrCrcChunk (s : State) : Host.Outcome State Fault Refusal :=
  runChecked (regionFault .frCrcChunk s)
    (fun s =>
      let crc := s.chunkCrc
      complete 0 0
        { s.setCrcMatch (s.framer.chCrc == crc) with
          framer := { s.framer with chCrcCalc := crc } })
    s

/-- FR_WRITE_SIG (41_framer.md R187). -/
def execFrWriteSig (s : State) : Host.Outcome State Fault Refusal :=
  runChecked (regionFault .frWriteSig s <|> dstOverflowFault 8 s)
    (fun s => complete 8 0 (s.memWrite s.operand.dstAddr.toNat signature)) s

end Sys2Proof.Machine
end

