-- ==== Sys2Proof/Machine/Dispatch.lean ====
section
/-! DEFINITION. One arm per command: the meaning it has. -/

namespace Sys2Proof.Machine

def exec (i : Instr) (s : State) : Host.Outcome State Fault Refusal :=
  match i with
  | .nop => Sys2Proof.Machine.execNop s
  | .frReadChunk => Sys2Proof.Machine.execFrReadChunk s
  | .frParseDoc => Sys2Proof.Machine.execFrParseDoc s
  | .frWriteChunkStored => Sys2Proof.Machine.execFrWriteChunkStored s
  | .frWriteChunkRecomp => Sys2Proof.Machine.execFrWriteChunkRecomp s
  | .frWriteChunkPlace => Sys2Proof.Machine.execFrWriteChunkPlace s
  | .frCrcChunk => Sys2Proof.Machine.execFrCrcChunk s
  | .frWriteSig => Sys2Proof.Machine.execFrWriteSig s
  | .sfDefilter => Sys2Proof.Machine.execSfDefilter s
  | .sfRefilterNone => Sys2Proof.Machine.execSfRefilterNone s
  | .rcLoadKey => Sys2Proof.Machine.execRcLoadKey s
  | .rcEcbEnc => Sys2Proof.Machine.execRcEcbEnc s
  | .rcEcbDec => Sys2Proof.Machine.execRcEcbDec s
  | .rcCfbEnc => Sys2Proof.Machine.execRcCfbEnc s
  | .rcCfbDec => Sys2Proof.Machine.execRcCfbDec s
  | .rcModexpE => Sys2Proof.Machine.execRcModexpE s
  | .rcModexpD => Sys2Proof.Machine.execRcModexpD s
  | .rcClearKey => Sys2Proof.Machine.execRcClearKey s

end Sys2Proof.Machine
end

