-- ==== Sys2Proof/Machine/RegBlock.lean ====
section
/-! DEFINITION. The register block: the map of 10_state.md R20, what each register reads, and what a
host write to it does while no command is in progress. CTRL is in HostBus.lean. -/

namespace Sys2Proof.Machine

/-- The registers of the map (10_state.md R20). -/
inductive Reg where
  | id
  | cfgMem
  | cfgKey
  | cmd
  | status
  | errCode
  | errIndex
  | errOffset
  | errExpected
  | errActual
  | ctrl
  | irqStatus
  | srcAddr
  | srcLen
  | dstAddr
  | dstLen
  | extAddr
  | extLen
  | outLen
  | outExtLen
  | cursor
  | chLen
  | chType
  | chCrc
  | chCrcCalc
  | chDataAddr
  | crcPlaceholder
  | docNchunks
  | docTrailOff
  | docTrailLen
  | docFlags
  | docCrcBad
  | width
  | height
  | bpp
  | keyBits
  | keyAddr
  | ivAddr
  | plainLen
  | keyB
  | keyU
  deriving DecidableEq, Repr

/-- The host offset of a register (10_state.md R20). -/
def Reg.offset : Reg → Nat
  | .id => 0x000
  | .cfgMem => 0x004
  | .cfgKey => 0x008
  | .cmd => 0x010
  | .status => 0x014
  | .errCode => 0x018
  | .errIndex => 0x01C
  | .errOffset => 0x020
  | .errExpected => 0x024
  | .errActual => 0x028
  | .ctrl => 0x02C
  | .irqStatus => 0x030
  | .srcAddr => 0x040
  | .srcLen => 0x044
  | .dstAddr => 0x048
  | .dstLen => 0x04C
  | .extAddr => 0x050
  | .extLen => 0x054
  | .outLen => 0x058
  | .outExtLen => 0x05C
  | .cursor => 0x060
  | .chLen => 0x064
  | .chType => 0x068
  | .chCrc => 0x06C
  | .chCrcCalc => 0x070
  | .chDataAddr => 0x074
  | .crcPlaceholder => 0x078
  | .docNchunks => 0x080
  | .docTrailOff => 0x084
  | .docTrailLen => 0x088
  | .docFlags => 0x08C
  | .docCrcBad => 0x090
  | .width => 0x0A0
  | .height => 0x0A4
  | .bpp => 0x0A8
  | .keyBits => 0x0B0
  | .keyAddr => 0x0B4
  | .ivAddr => 0x0B8
  | .plainLen => 0x0BC
  | .keyB => 0x0C0
  | .keyU => 0x0C4

/-- Every register of the map, by rising offset. -/
def Reg.all : List Reg :=
  [.id, .cfgMem, .cfgKey, .cmd, .status, .errCode, .errIndex, .errOffset, .errExpected, .errActual,
   .ctrl, .irqStatus, .srcAddr, .srcLen, .dstAddr, .dstLen, .extAddr, .extLen, .outLen, .outExtLen,
   .cursor] ++
  [.chLen, .chType, .chCrc, .chCrcCalc, .chDataAddr, .crcPlaceholder, .docNchunks, .docTrailOff,
   .docTrailLen, .docFlags, .docCrcBad, .width, .height, .bpp, .keyBits, .keyAddr, .ivAddr,
   .plainLen, .keyB, .keyU]

/-- The register at an offset; none at a reserved one (10_state.md R20). -/
def Reg.ofOffset (off : Nat) : Option Reg := Reg.all.find? fun r => r.offset == off

/-- The registers of access class RW (10_state.md R20). -/
def Reg.isRW : Reg → Bool
  | .srcAddr => true
  | .srcLen => true
  | .dstAddr => true
  | .dstLen => true
  | .extAddr => true
  | .extLen => true
  | .cursor => true
  | .chLen => true
  | .chType => true
  | .chCrc => true
  | .crcPlaceholder => true
  | .width => true
  | .height => true
  | .bpp => true
  | .keyBits => true
  | .keyAddr => true
  | .ivAddr => true
  | .plainLen => true
  | .id => false
  | .cfgMem => false
  | .cfgKey => false
  | .cmd => false
  | .status => false
  | .errCode => false
  | .errIndex => false
  | .errOffset => false
  | .errExpected => false
  | .errActual => false
  | .ctrl => false
  | .irqStatus => false
  | .outLen => false
  | .outExtLen => false
  | .chCrcCalc => false
  | .chDataAddr => false
  | .docNchunks => false
  | .docTrailOff => false
  | .docTrailLen => false
  | .docFlags => false
  | .docCrcBad => false
  | .keyB => false
  | .keyU => false

/-- What a register reads (10_state.md R21 to R64). CFG_KEY has KMAX_BITS in bits 15..0 (R23). -/
def readReg (r : Reg) (s : State) : Word :=
  match r with
  | .id => Config.idWord
  | .cfgMem => word s.params.memBytes
  | .cfgKey => word (s.params.kmaxBits % 2 ^ 16)
  | .cmd => s.lastCmd
  | .status => s.statusWord
  | .errCode => s.err.code
  | .errIndex => s.err.index
  | .errOffset => s.err.offset
  | .errExpected => s.err.expected
  | .errActual => s.err.actual
  | .ctrl => s.ctrlWord
  | .irqStatus => s.irqStatusWord
  | .srcAddr => s.operand.srcAddr
  | .srcLen => s.operand.srcLen
  | .dstAddr => s.operand.dstAddr
  | .dstLen => s.operand.dstLen
  | .extAddr => s.operand.extAddr
  | .extLen => s.operand.extLen
  | .outLen => s.out.len
  | .outExtLen => s.out.extLen
  | .cursor => s.framer.cursor
  | .chLen => s.framer.chLen
  | .chType => s.framer.chType
  | .chCrc => s.framer.chCrc
  | .chCrcCalc => s.framer.chCrcCalc
  | .chDataAddr => s.framer.chDataAddr
  | .crcPlaceholder => s.framer.crcPlaceholder
  | .docNchunks => s.framer.docNchunks
  | .docTrailOff => s.framer.docTrailOff
  | .docTrailLen => s.framer.docTrailLen
  | .docFlags => s.framer.docFlags
  | .docCrcBad => s.framer.docCrcBad
  | .width => s.filter.width
  | .height => s.filter.height
  | .bpp => s.filter.bpp
  | .keyBits => s.cipher.keyBits
  | .keyAddr => s.cipher.keyAddr
  | .ivAddr => s.cipher.ivAddr
  | .plainLen => s.cipher.plainLen
  | .keyB => word s.key.kb
  | .keyU => word s.key.ku

/-- Store a value in an RW register; any other register keeps its value (10_state.md R20). -/
def storeReg (r : Reg) (v : Word) (s : State) : State :=
  match r with
  | .srcAddr => { s with operand := { s.operand with srcAddr := v } }
  | .srcLen => { s with operand := { s.operand with srcLen := v } }
  | .dstAddr => { s with operand := { s.operand with dstAddr := v } }
  | .dstLen => { s with operand := { s.operand with dstLen := v } }
  | .extAddr => { s with operand := { s.operand with extAddr := v } }
  | .extLen => { s with operand := { s.operand with extLen := v } }
  | .cursor => { s with framer := { s.framer with cursor := v } }
  | .chLen => { s with framer := { s.framer with chLen := v } }
  | .chType => { s with framer := { s.framer with chType := v } }
  | .chCrc => { s with framer := { s.framer with chCrc := v } }
  | .crcPlaceholder => { s with framer := { s.framer with crcPlaceholder := v } }
  | .width => { s with filter := { s.filter with width := v } }
  | .height => { s with filter := { s.filter with height := v } }
  | .bpp => { s with filter := { s.filter with bpp := v } }
  | .keyBits => { s with cipher := { s.cipher with keyBits := v } }
  | .keyAddr => { s with cipher := { s.cipher with keyAddr := v } }
  | .ivAddr => { s with cipher := { s.cipher with ivAddr := v } }
  | .plainLen => { s with cipher := { s.cipher with plainLen := v } }
  | .id => s
  | .cfgMem => s
  | .cfgKey => s
  | .cmd => s
  | .status => s
  | .errCode => s
  | .errIndex => s
  | .errOffset => s
  | .errExpected => s
  | .errActual => s
  | .ctrl => s
  | .irqStatus => s
  | .outLen => s
  | .outExtLen => s
  | .chCrcCalc => s
  | .chDataAddr => s
  | .docNchunks => s
  | .docTrailOff => s
  | .docTrailLen => s
  | .docFlags => s
  | .docCrcBad => s
  | .keyB => s
  | .keyU => s

end Sys2Proof.Machine
end

