-- ==== Sys2Proof/WellFormed.lean ====
section
/-! DEFINITION. The three fields of a command word and the checks that make them a legal command
(30_encoding.md R110, R113, R115). The commands themselves have no operand, so what can be ill formed
is a command word's fields. -/

namespace Sys2Proof

/-- The fields of the one command format (30_encoding.md R110): OP bits 7..0, MODE bits 9..8, RSV
bits 31..10. -/
structure CmdFields where
  op : BitVec 8
  mode : BitVec 2
  rsv : BitVec 22
  deriving DecidableEq, Repr

/-- RSV must be 0 (R110, R115). -/
def CmdFields.rsvZero (f : CmdFields) : Bool := f.rsv == 0#22

/-- The opcodes of R113. -/
def listedOps : List Nat :=
  [0x00, 0x01, 0x02, 0x03, 0x04, 0x05, 0x10, 0x11, 0x20, 0x21, 0x22, 0x23, 0x24, 0x25, 0x26]

/-- OP must be listed (R113, R115). -/
def CmdFields.opListed (f : CmdFields) : Bool := listedOps.contains f.op.toNat

/-- The MODE values of R113: opcode 0x03 has 0, 1 and 2, opcode 0x25 has 0 and 1, every other opcode
only 0. -/
def CmdFields.modeListed (f : CmdFields) : Bool :=
  if f.op == 0x03#8 then f.mode.toNat < 3
  else if f.op == 0x25#8 then f.mode.toNat < 2
  else f.mode == 0#2

/-- The fields are those of a command of R113. -/
def CmdFields.wf (f : CmdFields) : Bool := f.rsvZero && f.opListed && f.modeListed

end Sys2Proof
end

