-- ==== Sys2Proof/Decode.lean ====
section
/-! DEFINITION. The decoder, total on every 32-bit word and rejecting by name, and after it the
encoder (30_encoding.md R110 to R116). -/

namespace Sys2Proof

/-- Cut a command word into its fields (30_encoding.md R110). -/
def CmdFields.ofWord (w : Word) : CmdFields :=
  { op := w.extractLsb' 0 8, mode := w.extractLsb' 8 2, rsv := w.extractLsb' 10 22 }

/-- Put the fields together again: OP | MODE << 8 | RSV << 10 (30_encoding.md R110, R113). -/
def CmdFields.toWord (f : CmdFields) : Word := f.rsv ++ f.mode ++ f.op

/-- Why a word is no command (30_encoding.md R115). The device itself makes no difference between
the three: all of them are ILLEGAL_COMMAND (40_common.md R150; log entry 12). -/
inductive DecodeError where
  /-- A bit of RSV is set. -/
  | reservedBits (rsv : BitVec 22)
  /-- RSV is 0 and OP is not in the table. -/
  | unlistedOp (op : BitVec 8)
  /-- RSV is 0, OP is in the table, and this MODE of it is not. -/
  | unlistedMode (op : BitVec 8) (mode : BitVec 2)
  deriving DecidableEq, Repr

/-- The opcode table, word by word (30_encoding.md R113; each mask is 0xFFFF_FFFF, R111). -/
def opcodeTable : List (Word × Instr) :=
  [(0x00000000#32, .nop),
   (0x00000001#32, .frReadChunk),
   (0x00000002#32, .frParseDoc),
   (0x00000003#32, .frWriteChunkStored),
   (0x00000103#32, .frWriteChunkRecomp),
   (0x00000203#32, .frWriteChunkPlace),
   (0x00000004#32, .frCrcChunk),
   (0x00000005#32, .frWriteSig),
   (0x00000010#32, .sfDefilter),
   (0x00000011#32, .sfRefilterNone)] ++
  [(0x00000020#32, .rcLoadKey),
   (0x00000021#32, .rcEcbEnc),
   (0x00000022#32, .rcEcbDec),
   (0x00000023#32, .rcCfbEnc),
   (0x00000024#32, .rcCfbDec),
   (0x00000025#32, .rcModexpE),
   (0x00000125#32, .rcModexpD),
   (0x00000026#32, .rcClearKey)]

/-- The name of the rejection of a word that is not in the table. -/
def rejectWord (w : Word) : DecodeError :=
  let f := CmdFields.ofWord w
  if f.rsvZero then
    if f.opListed then .unlistedMode f.op f.mode else .unlistedOp f.op
  else .reservedBits f.rsv

/-- Decoding compares the whole word with the match values of the table (30_encoding.md R111). -/
def decode (w : Word) : Except DecodeError Instr :=
  match opcodeTable.find? (fun row => row.1 == w) with
  | some row => .ok row.2
  | none => .error (rejectWord w)

/-- OP of each command (30_encoding.md R113). -/
def Instr.op : Instr → BitVec 8
  | .nop => 0x00#8
  | .frReadChunk => 0x01#8
  | .frParseDoc => 0x02#8
  | .frWriteChunkStored => 0x03#8
  | .frWriteChunkRecomp => 0x03#8
  | .frWriteChunkPlace => 0x03#8
  | .frCrcChunk => 0x04#8
  | .frWriteSig => 0x05#8
  | .sfDefilter => 0x10#8
  | .sfRefilterNone => 0x11#8
  | .rcLoadKey => 0x20#8
  | .rcEcbEnc => 0x21#8
  | .rcEcbDec => 0x22#8
  | .rcCfbEnc => 0x23#8
  | .rcCfbDec => 0x24#8
  | .rcModexpE => 0x25#8
  | .rcModexpD => 0x25#8
  | .rcClearKey => 0x26#8

/-- MODE of each command: the CRC source of FR_WRITE_CHUNK and the exponent of RC_MODEXP
(30_encoding.md R112, R113). -/
def Instr.mode : Instr → BitVec 2
  | .nop => 0#2
  | .frReadChunk => 0#2
  | .frParseDoc => 0#2
  | .frWriteChunkStored => 0#2
  | .frWriteChunkRecomp => 1#2
  | .frWriteChunkPlace => 2#2
  | .frCrcChunk => 0#2
  | .frWriteSig => 0#2
  | .sfDefilter => 0#2
  | .sfRefilterNone => 0#2
  | .rcLoadKey => 0#2
  | .rcEcbEnc => 0#2
  | .rcEcbDec => 0#2
  | .rcCfbEnc => 0#2
  | .rcCfbDec => 0#2
  | .rcModexpE => 0#2
  | .rcModexpD => 1#2
  | .rcClearKey => 0#2

/-- The fields of a command's word. -/
def Instr.fields (i : Instr) : CmdFields := { op := i.op, mode := i.mode, rsv := 0#22 }

/-- A command is well formed when its fields are (30_encoding.md R110). Every constructor is. -/
def Instr.wf (i : Instr) : Bool := i.fields.wf

/-- The word of a command (30_encoding.md R113: `OP | MODE << 8`). -/
def encode (i : Instr) : Word := i.fields.toWord

/-- The decoder on a word given as the opcode table numbers its bits; bits at and above `nbits` are 0. -/
def decodeTableWord (nbits w : Nat) : Option Instr :=
  match decode (BitVec.ofNat 32 (w % 2 ^ nbits)) with
  | .ok i => some i
  | .error _ => none

end Sys2Proof
end

