-- ==== Sys2Proof/Machine/Reset.lean ====
section
/-! DEFINITION. The two resets and the abort of a running command (70_reset_and_hazards.md R360 to R364). -/

namespace Sys2Proof.Machine

/-- Every register, flag and internal state at its reset value (10_state.md R72; 70_reset_and_hazards.md
R361); the memory, the counters of free draws and the outside world's side are kept. -/
def resetRegs (s : State) : State :=
  { State.resetOf s.params with
    mem := s.mem, memDraw := s.memDraw, draws := s.draws, script := s.script, answers := s.answers }

/-- Leave each of the regions unspecified. -/
def drawRegions (rs : List Region) (s : State) : State :=
  rs.foldl (fun s r => s.drawRegion r.addr r.len) s

/-- What a soft reset does to the memory: the write regions of the command in progress, if it is a legal
one, are unspecified; nothing else changes (70_reset_and_hazards.md R363). -/
def abortMemory (s : State) : State :=
  match s.phase with
  | .idle => s
  | .busy w =>
    match decode w with
    | .ok i => drawRegions (writeRegions i s) s
    | .error _ => s

/-- The soft reset (70_reset_and_hazards.md R362, R363). -/
def softReset (s : State) : State := resetRegs (abortMemory s)

/-- The hardware reset: as the soft one, but every byte of the buffer is a fresh free draw
(70_reset_and_hazards.md R360; log entry 6). -/
def hardReset (s : State) : State :=
  { resetRegs s with mem := [], memDraw := s.draws, draws := s.draws + 1 }

end Sys2Proof.Machine
end

