-- ==== Sys2Proof/Machine/HostBus.lean ====
section
/-! DEFINITION. The host's bus transactions: window decode, register access, buffer access
(20_memory.md R80 to R84; 40_common.md R141 to R143). -/

namespace Sys2Proof.Machine

/-- What an offset selects (20_memory.md R81). -/
inductive Area where
  | regBlock (off : Nat)
  | buffer (addr : Nat)
  | outside
  deriving DecidableEq, Repr

/-- The area that all bytes of a transaction lie in; a transaction over two areas is in none
(20_memory.md R81). DEDUCED (log entry 17): one that straddles an edge of the buffer, or the end of the
register block, is therefore no buffer access and no register write, so while Busy it leaves
BUF_BLOCKED and BUSY_WRITE as they are. -/
def areaOf (p : Params) (off size : Nat) : Area :=
  if off < Config.regBlockBytes ∧ off + size ≤ Config.regBlockBytes then .regBlock off
  else if Config.bufBase ≤ off ∧ off < Config.bufBase + p.memBytes ∧
      off + size ≤ Config.bufBase + p.memBytes then .buffer (off - Config.bufBase)
  else .outside

/-- The sizes of a transaction (20_memory.md R80; log entry 10). -/
def sizeLegal (size : Nat) : Bool := size == 1 || size == 2 || size == 4

/-- A register access is 4 bytes at a multiple of 4 (20_memory.md R82). -/
def regAccessLegal (off size : Nat) : Bool := size == 4 && off % 4 == 0

/-- Clear the sticky bits (10_state.md R41, CLR_STICKY). -/
def clearSticky (s : State) : State :=
  { s with status := { s.status with busyWrite := false, bufBlocked := false } }

/-- A write to CTRL: SOFT_RESET (bit 1) acts alone; otherwise bit 0 is stored in IRQ_EN and CLR_STICKY
(bit 2) acts (10_state.md R41; 70_reset_and_hazards.md R362). -/
def writeCtrl (v : Word) (s : State) : State :=
  if v.getLsbD 1 then softReset s
  else
    let s1 := { s with irqEn := v.getLsbD 0 }
    if v.getLsbD 2 then clearSticky s1 else s1

/-- A write to IRQ_STATUS: bit 0 set clears DONE_PEND (10_state.md R42). -/
def writeIrqStatus (v : Word) (s : State) : State :=
  if v.getLsbD 0 then { s with donePend := false } else s

/-- Set the sticky STATUS.BUSY_WRITE (10_state.md R34). -/
def setBusyWrite (s : State) : State := { s with status := { s.status with busyWrite := true } }

/-- Set the sticky STATUS.BUF_BLOCKED (10_state.md R35). -/
def setBufBlocked (s : State) : State := { s with status := { s.status with bufBlocked := true } }

/-- A write to the register block. CTRL and IRQ_STATUS act in any phase; while Busy every other offset is
ignored and sets BUSY_WRITE; while Idle a write to CMD is accepted, an RW register stores the value,
and RO and reserved offsets ignore it (10_state.md R20, R34; 40_common.md R141 to R143). -/
def writeRegOffset (off : Nat) (v : Word) (s : State) : State :=
  match Reg.ofOffset off with
  | some .ctrl => writeCtrl v s
  | some .irqStatus => writeIrqStatus v s
  | some .cmd => if s.busy then setBusyWrite s else accept v s
  | some r => if s.busy then setBusyWrite s else storeReg r v s
  | none => if s.busy then setBusyWrite s else s

/-- A read of the register block: a reserved offset reads 0 (10_state.md R20). -/
def readRegOffset (off : Nat) (s : State) : Word :=
  match Reg.ofOffset off with
  | some r => readReg r s
  | none => 0#32

/-- A transaction: its answer and the state after it. The order of the checks where several apply is
log entries 8 to 10 and 17. -/
def transact (t : Transaction) (s : State) : BusAnswer × State :=
  match t with
  | .read off size =>
    if sizeLegal size then
      match areaOf s.params off size with
      | .regBlock o =>
        if regAccessLegal o size then (.value (readRegOffset o s).toNat, s) else (.busError, s)
      | .buffer a =>
        if s.busy then (.busError, setBufBlocked s)
        else if a % size = 0 then (.value (fromLE (s.memRead a size)), s) else (.busError, s)
      | .outside => (.busError, s)
    else (.busError, s)
  | .write off size v =>
    if sizeLegal size then
      match areaOf s.params off size with
      | .regBlock o =>
        if regAccessLegal o size then (.ok, writeRegOffset o (word v) s) else (.busError, s)
      | .buffer a =>
        if s.busy then (.busError, setBufBlocked s)
        else if a % size = 0 then (.ok, s.memWrite a (leBytes size (v % 2 ^ (8 * size))))
        else (.busError, s)
      | .outside => (.busError, s)
    else (.busError, s)

/-- Keep an answer for the host, newest first (log entry 1). -/
def recordAnswer (a : BusAnswer) (s : State) : State := { s with answers := a :: s.answers }

/-- The host's step: one transaction, atomically (40_common.md R140; 20_memory.md R94). -/
def hostStep (t : Transaction) (s : State) : State :=
  let r := transact t s
  recordAnswer r.1 r.2

end Sys2Proof.Machine
end

