-- ==== Sys2Proof/Machine/Engine.lean ====
section
/-! DEFINITION. The engine's step, and one event of the schedule (40_common.md R140, R144, R145, R150;
log entries 1 to 3). -/

namespace Sys2Proof.Machine

/-- ILLEGAL_COMMAND: ERR_ACTUAL is the word itself (40_common.md R150). -/
def illegalCommand (w : Word) : CmdFault := { code := .illegalCommand, actual := w.toNat }

/-- The engine performs the command word: decode it, run the command; a word that is no command
completes with ILLEGAL_COMMAND (40_common.md R145, R150; 30_encoding.md R111). -/
def performWord (w : Word) (s : State) : Host.Outcome State Fault Refusal :=
  match decode w with
  | .ok i => exec i s
  | .error _ => .next (takeFault (illegalCommand w) s)

/-- The engine's turn: it has a step only while the phase is Busy (40_common.md R140); while Idle the
device does nothing (60_exceptions.md R337). -/
def engineTurn (s : State) : Host.Outcome State Fault Refusal :=
  match s.phase with
  | .busy w => performWord w s
  | .idle => .next s

/-- The transaction of a poll: a read of STATUS (30_encoding.md R117). -/
def statusRead : Transaction := .read 0x014 4

/-- One poll of WAIT: read STATUS; if BUSY was 1, the engine moves next and the host polls again
(30_encoding.md R117, R119; log entry 3). -/
def pollStep (s : State) : State :=
  let s1 := hostStep statusRead s
  if s.busy then { s1 with script := .engine :: .wait :: s1.script } else s1

/-- One event of the schedule; it has been taken off `script` already. -/
def runEvent (e : Event) (s : State) : Host.Outcome State Fault Refusal :=
  match e with
  | .bus t => .next (hostStep t s)
  | .wait => .next (pollStep s)
  | .engine => engineTurn s
  | .hardReset => .next (hardReset s)

end Sys2Proof.Machine
end

