-- ==== Sys2Proof/Machine/Step.lean ====
section
/-! DEFINITION. One step of the machine, and where a command word is placed for the next step to run. -/

namespace Sys2Proof.Machine

/-- One step: the next event of the schedule; with an empty schedule the host does nothing more and the
engine has its turn (40_common.md R144; log entry 2). -/
def step (s : State) : Host.Outcome State Fault Refusal :=
  match s.script with
  | [] => engineTurn s
  | e :: rest => runEvent e { s with script := rest }

/-- `s` with the command word accepted (40_common.md R141) and the engine's turn next, so that the very
next step performs exactly that word. The device fetches nothing (10_state.md R71): the phase
`Busy(w)` is where the engine finds its command (log entry 4). -/
def State.withFetchWord (s : State) (nbits w : Nat) : State :=
  let s1 := accept (BitVec.ofNat 32 (w % 2 ^ nbits)) s
  { s1 with script := .engine :: s.script }

end Sys2Proof.Machine
end

