-- ==== Sys2Proof/Machine/HostProgram.lean ====
section
/-! DEFINITION. Host programs: the statements and pseudo-instructions of 30_encoding.md R117 and R118, as
the events of the schedule they stand for (log entry 15). -/

namespace Sys2Proof.Machine

/-- The bases of SETR (30_encoding.md R118). -/
inductive SetrBase where
  | src
  | dst
  | ext
  deriving DecidableEq, Repr

/-- The statements (30_encoding.md R117) and the pseudo-instructions RUN, SETR and ACK (R118). -/
inductive Stmt where
  | wr (r : Reg) (v : Nat)
  | rd (r : Reg)
  | wb (addr : Nat) (bytes : Bytes)
  | rb (addr n : Nat)
  | cmd (i : Instr)
  | wait
  | run (i : Instr)
  | setr (base : SetrBase) (addr len : Nat)
  | ack
  deriving DecidableEq, Repr

/-- `WR reg, v`. -/
def wrEvent (r : Reg) (v : Nat) : Event := .bus (.write r.offset 4 v)

/-- The host's 1-byte writes of `WB`. -/
def wbEvents (addr : Nat) (bytes : Bytes) : List Event :=
  bytes.mapIdx fun i b => .bus (.write (Config.bufBase + addr + i) 1 b.toNat)

/-- The host's 1-byte reads of `RB`. -/
def rbEvents (addr n : Nat) : List Event :=
  (List.range n).map fun i => .bus (.read (Config.bufBase + addr + i) 1)

/-- `CMD mnemonic`: a write of its word to CMD. -/
def cmdEvent (i : Instr) : Event := wrEvent .cmd (encode i).toNat

/-- The address and length registers of a SETR base. -/
def SetrBase.regs : SetrBase → Reg × Reg
  | .src => (.srcAddr, .srcLen)
  | .dst => (.dstAddr, .dstLen)
  | .ext => (.extAddr, .extLen)

/-- The events of a statement (30_encoding.md R117, R118). -/
def Stmt.expand : Stmt → List Event
  | .wr r v => [wrEvent r v]
  | .rd r => [.bus (.read r.offset 4)]
  | .wb addr bytes => wbEvents addr bytes
  | .rb addr n => rbEvents addr n
  | .cmd i => [cmdEvent i]
  | .wait => [.wait]
  | .run i => [cmdEvent i, .wait]
  | .setr base addr len => [wrEvent base.regs.1 addr, wrEvent base.regs.2 len]
  | .ack => [wrEvent .irqStatus 1]

/-- The schedule of a host program, without turns of the engine. DESIGN CHOICE (log entry 18): run as it
stands, the engine moves only after a WAIT poll that saw BUSY (`pollStep`) and past the last statement.
The other schedules of the same program are those of `IsScheduleOf`. -/
def programEvents (p : List Stmt) : List Event := p.flatMap Stmt.expand

/-- A schedule of a host program: its events in their order, with turns of the engine at any places
between them (40_common.md R144 leaves the place open; log entry 18). -/
def IsScheduleOf (l : List Event) (p : List Stmt) : Prop :=
  l.filter (fun e => e != .engine) = programEvents p

end Sys2Proof.Machine
end

