-- ==== Sys2Proof/Safety.lean ====
section
/-! DEFINITION. What counts as a safe state and a safe run, and the words the claims are said in: the
invariants of the state, the success and the fault outcome written out, what a store changes, and
when a command's regions and register values are legal. -/

namespace Sys2Proof.Machine

/-! ### Invariants -/

/-- The memory is in its canonical form, lists only addresses of the buffer, and the free draws its
unlisted bytes read from are taken (20_memory.md; log entries 5 and 6). -/
def State.MemoryOk (s : State) : Prop :=
  s.mem.wf ∧ (∀ c ∈ s.mem, c.1 < s.params.memBytes) ∧ s.memDraw < s.draws

/-- The key registers are legal: with KEY_VALID they hold a key of width 2 to KMAX_B whose numbers fit
it and whose modulus is not 0, and KEY_NARROW is as R262 says; without it they are all 0
(10_state.md R29, R31, R66). -/
def State.KeyOk (s : State) : Prop :=
  (s.status.keyValid = true →
    (2 ≤ s.key.kb ∧ s.key.kb ≤ s.params.kmaxBytes) ∧
    (1 ≤ s.key.kn ∧ s.key.kn < 256 ^ s.key.kb ∧ s.key.ke < 256 ^ s.key.kb ∧
      s.key.kd < 256 ^ s.key.kb) ∧
    (s.status.keyNarrow = true ↔ s.key.kn < 256 ^ (s.key.kb - 1))) ∧
  (s.status.keyValid = false →
    s.key.kn = 0 ∧ s.key.ke = 0 ∧ s.key.kd = 0 ∧ s.key.kb = 0 ∧ s.status.keyNarrow = false)

/-- STATUS and the error report agree with the phase: while Busy the word in progress is LAST_CMD and
DONE, ERR, BLOCK_GE_N and DROP_NZ are 0; while Idle ERR says whether ERR_CODE is nonzero, ERR comes
with DONE, and after a fault BLOCK_GE_N and DROP_NZ are 0; the reserved bits of ERR_CODE and
DOC_FLAGS are 0 (10_state.md R27, R28, R32, R33, R36, R56; 40_common.md R141; 60_exceptions.md R322). -/
def State.StatusOk (s : State) : Prop :=
  (∀ w, s.phase = .busy w →
    s.lastCmd = w ∧ s.status.done = false ∧ s.status.err = false ∧ s.status.blockGeN = false ∧
      s.status.dropNz = false) ∧
  (s.phase = .idle → (s.status.err = true ↔ s.err.code ≠ 0#32)) ∧
  (s.status.err = true →
    s.status.done = true ∧ s.status.blockGeN = false ∧ s.status.dropNz = false) ∧
  s.err.code.toNat < 2 ^ 16 ∧ s.framer.docFlags.toNat < 2 ^ 8

/-- All of it, for a device whose parameters are legal. -/
def State.Inv (s : State) : Prop := s.params.Legal ∧ s.MemoryOk ∧ s.KeyOk ∧ s.StatusOk

/-- A run of `n` steps is safe: it answers a state, the invariant holds there, and no access of the
host was dropped (70_reset_and_hazards.md R368: both sticky bits 0). -/
def SafeRun (n : Nat) (s : State) : Prop :=
  ∃ t, Sys2Proof.core.run n s = .next t ∧ State.Inv t ∧
    State.statusWord t &&& 0x300#32 = 0#32

/-! ### Outcomes, written out -/

/-- `s` after a success with the given OUT_LEN and OUT_EXT_LEN (40_common.md R146); what else a command
writes is written in `s`. -/
def State.succeeded (s : State) (outLen outExtLen : Nat) : State :=
  { s with
    out := { len := BitVec.ofNat 32 outLen, extLen := BitVec.ofNat 32 outExtLen }
    err := { code := 0#32, index := 0#32, offset := 0#32, expected := 0#32, actual := 0#32 }
    status := { s.status with done := true }
    donePend := true
    phase := .idle }

/-- A value saturated to 32 bits (40_common.md R155). -/
def saturated (v : Nat) : Word := BitVec.ofNat 32 (min v 0xFFFFFFFF)

/-- `s` after a fault (60_exceptions.md R322): CODE in bits 7..0 and SUB in bits 15..8 of ERR_CODE. -/
def State.faulted (s : State) (code sub index offset expected actual : Nat) : State :=
  { s with
    out := { len := 0#32, extLen := 0#32 }
    err := { code := BitVec.ofNat 32 (code + 256 * sub), index := BitVec.ofNat 32 index,
             offset := BitVec.ofNat 32 offset, expected := saturated expected,
             actual := saturated actual }
    status := { s.status with err := true, done := true }
    donePend := true
    phase := .idle }

/-- `s` without a key (43_cipher.md R261, R263). -/
def State.withoutKey (s : State) : State :=
  { s with
    key := { kn := 0, ke := 0, kd := 0, kb := 0 }
    status := { s.status with keyValid := false, keyNarrow := false } }

/-- `t`'s memory is `s`'s with exactly the bytes `bs` stored at address `a`: they read so, and every
other address reads as before. -/
def StoredExactly (s t : State) (a : Nat) (bs : Bytes) : Prop :=
  ∀ x, t.readByte x = if a ≤ x ∧ x < a + bs.length then bs.getD (x - a) 0#8 else s.readByte x

/-- Every address outside `(a, n)` reads as before. -/
def UnchangedOutside (s t : State) (a n : Nat) : Prop :=
  ∀ x, ¬ (a ≤ x ∧ x < a + n) → t.readByte x = s.readByte x

/-! ### Legal operands -/

/-- Every region the command uses is in range, and none it writes overlaps another of its regions
(20_memory.md R86, R87). -/
def RegionsLegal (i : Instr) (s : State) : Prop :=
  (∀ r ∈ regions i s, r.len = 0 ∨ r.addr + r.len ≤ s.params.memBytes) ∧
  (∀ w ∈ regions i s, ∀ o ∈ regions i s, w.writes = true → w.id ≠ o.id →
    ¬ (0 < w.len ∧ 0 < o.len ∧ w.addr < o.addr + o.len ∧ o.addr < w.addr + w.len))

/-- The checks a command makes before its region checks pass, and it is no zero-length no-op
(60_exceptions.md R324, points 1 to 4). -/
def EarlyChecksPass (i : Instr) (s : State) : Prop :=
  match i with
  | .nop => True
  | .frReadChunk => s.framer.cursor.toNat ≤ s.operand.srcLen.toNat
  | .frParseDoc => True
  | .frWriteChunkStored => True
  | .frWriteChunkRecomp => True
  | .frWriteChunkPlace => True
  | .frCrcChunk => True
  | .frWriteSig => True
  | .sfDefilter => 1 ≤ s.filter.bpp.toNat ∧ s.filter.bpp.toNat ≤ 4
  | .sfRefilterNone => 1 ≤ s.filter.bpp.toNat ∧ s.filter.bpp.toNat ≤ 4
  | .rcLoadKey => 9 ≤ s.cipher.keyBits.toNat ∧ s.cipher.keyBits.toNat ≤ s.params.kmaxBits
  | .rcEcbEnc => s.status.keyValid = true ∧ 0 < s.operand.srcLen.toNat
  | .rcEcbDec => s.status.keyValid = true ∧ 0 < s.operand.srcLen.toNat
  | .rcCfbEnc => s.status.keyValid = true ∧ 0 < s.operand.srcLen.toNat
  | .rcCfbDec => s.status.keyValid = true ∧ 0 < s.operand.srcLen.toNat
  | .rcModexpE =>
    s.status.keyValid = true ∧ 0 < s.operand.srcLen.toNat ∧ s.operand.srcLen.toNat ≤ s.key.kb
  | .rcModexpD =>
    s.status.keyValid = true ∧ 0 < s.operand.srcLen.toNat ∧ s.operand.srcLen.toNat ≤ s.key.kb
  | .rcClearKey => True

/-- What a command's fault changes beside the fault outcome: RC_LOAD_KEY also clears the key
(60_exceptions.md R322). -/
def faultBase (i : Instr) (s : State) : State :=
  if i = .rcLoadKey then s.withoutKey else s

/-! ### Checks, reported -/

/-- The region checks of a command whose earlier checks pass are reported: the first region out of
range, in the order SRC, DST, EXT, KEY, IV; with all in range, the first overlapping pair, in the
order DST-SRC, DST-EXT, DST-IV, EXT-SRC, its first region written (20_memory.md R86, R87; details of
60_exceptions.md R321). -/
def RegionsReported (i : Instr) (s : State) : Prop :=
  (∀ (before after : List Region) (r : Region), regions i s = before ++ r :: after →
    (∀ q ∈ before, q.len = 0 ∨ q.addr + q.len ≤ s.params.memBytes) →
    r.len ≠ 0 → s.params.memBytes < r.addr + r.len →
    exec i s = .next ((faultBase i s).faulted 0x04 r.id.num 0 0 s.params.memBytes (r.addr + r.len))) ∧
  ((∀ r ∈ regions i s, r.len = 0 ∨ r.addr + r.len ≤ s.params.memBytes) →
    ∀ (before after : List (RegionId × RegionId)) (w o : Region),
      [(RegionId.dst, RegionId.src), (.dst, .ext), (.dst, .iv), (.ext, .src)] =
        before ++ (w.id, o.id) :: after →
      w ∈ regions i s → o ∈ regions i s → w.writes = true →
      (0 < w.len ∧ 0 < o.len ∧ w.addr < o.addr + o.len ∧ o.addr < w.addr + w.len) →
      (∀ p ∈ before, ∀ w' ∈ regions i s, ∀ o' ∈ regions i s, w'.id = p.1 → o'.id = p.2 →
        w'.writes = true →
        ¬ (0 < w'.len ∧ 0 < o'.len ∧ w'.addr < o'.addr + o'.len ∧ o'.addr < w'.addr + w'.len)) →
      exec i s = .next
        ((faultBase i s).faulted 0x05 (16 * w.id.num + o.id.num) 0 0 w.addr o.addr))

/-- The first checks of the RSA commands: without a key KEY_NOT_LOADED; with one, a stream command of
length zero succeeds with empty output; then the regions (43_cipher.md R265, R274). -/
def StreamPreamble (i : Instr) (s : State) : Prop :=
  (s.status.keyValid = false → exec i s = .next (s.faulted 0x03 0 0 0 1 0)) ∧
  (s.status.keyValid = true → s.operand.srcLen = 0#32 → exec i s = .next (s.succeeded 0 0)) ∧
  (EarlyChecksPass i s → RegionsReported i s)

/-- The first checks of the filter commands: BPP, then the regions (42_filter.md R221, R229, R231). -/
def FilterPreamble (i : Instr) (s : State) : Prop :=
  (¬ (1 ≤ s.filter.bpp.toNat ∧ s.filter.bpp.toNat ≤ 4) →
    exec i s = .next (s.faulted 0x02 1 0 0 4 s.filter.bpp.toNat)) ∧
  (EarlyChecksPass i s → RegionsReported i s)

/-- The four truncation checks in field order, with `r` bytes left and length field `len`: the check
that fails gives its sub-code, expected and actual value (41_framer.md R174). -/
def TruncationOutcome (r len : Nat) (report : Nat → Nat → Nat → Prop) : Prop :=
  (r < 4 → report 0 4 r) ∧
  (4 ≤ r → r < 8 → report 1 4 (r - 4)) ∧
  (8 ≤ r → r - 8 < len → report 2 len (r - 8)) ∧
  (8 ≤ r → len ≤ r - 8 → r - 8 - len < 4 → report 3 4 (r - 8 - len))

/-- The regions of every command, written out over the operand registers: read SRC, DATA (reported as
SRC), KEY and IV, write DST, and EXT, which RC_ECB_ENC writes and RC_ECB_DEC reads; and the numbers of
the region ids (41_framer.md R173, R176, R185 to R187; 42_filter.md R229, R231; 43_cipher.md R261, R266
to R271; 60_exceptions.md R321). -/
def RegionsWrittenOut (s : State) : Prop :=
  (RegionId.src.num = 0 ∧ RegionId.dst.num = 1 ∧ RegionId.ext.num = 2 ∧ RegionId.key.num = 3 ∧
    RegionId.iv.num = 4) ∧
  ∀ (src data dst key iv : Region) (ext : Bool → Region),
    src = ⟨.src, s.operand.srcAddr.toNat, s.operand.srcLen.toNat, false⟩ →
    data = ⟨.src, s.operand.srcAddr.toNat, s.framer.chLen.toNat, false⟩ →
    dst = ⟨.dst, s.operand.dstAddr.toNat, s.operand.dstLen.toNat, true⟩ →
    (∀ w, ext w = ⟨.ext, s.operand.extAddr.toNat, s.operand.extLen.toNat, w⟩) →
    key = ⟨.key, s.cipher.keyAddr.toNat, 3 * ((s.cipher.keyBits.toNat + 7) / 8), false⟩ →
    iv = ⟨.iv, s.cipher.ivAddr.toNat, s.key.kb, false⟩ →
    (regions .nop s = [] ∧ regions .rcClearKey s = [] ∧ regions .rcLoadKey s = [key]) ∧
    (regions .frReadChunk s = [src] ∧ regions .frParseDoc s = [src, dst] ∧
      regions .frWriteChunkStored s = [data, dst] ∧ regions .frWriteChunkRecomp s = [data, dst] ∧
      regions .frWriteChunkPlace s = [data, dst] ∧ regions .frCrcChunk s = [data] ∧
      regions .frWriteSig s = [dst]) ∧
    (regions .sfDefilter s = [src, dst] ∧ regions .sfRefilterNone s = [src, dst]) ∧
    (regions .rcEcbEnc s = [src, dst, ext true] ∧ regions .rcEcbDec s = [src, dst, ext false] ∧
      regions .rcCfbEnc s = [src, dst, iv] ∧ regions .rcCfbDec s = [src, dst, iv] ∧
      regions .rcModexpE s = [src, dst] ∧ regions .rcModexpD s = [src, dst])

/-! ### The register map -/

/-- The value of the STATUS register, bit by bit (10_state.md R25, R26). -/
def statusValue (s : State) : Nat :=
  (if s.phase = .idle then 0 else 1) + 2 * s.status.done.toNat + 4 * s.status.err.toNat +
    8 * s.status.keyValid.toNat + 16 * s.status.crcMatch.toNat + 32 * s.status.keyNarrow.toNat +
    64 * s.status.blockGeN.toNat + 128 * s.status.dropNz.toNat + 256 * s.status.busyWrite.toNat +
    512 * s.status.bufBlocked.toNat

/-- The register map: each offset that is not reserved, with the value a host read of it answers
(10_state.md R20 to R64). Numbers that are no registers are taken modulo their field's width, which
changes nothing on a device with legal parameters and a legal key. -/
def registerMap (s : State) : List (Nat × Nat) :=
  [(0x000, 0x50434631), (0x004, s.params.memBytes % 2 ^ 32), (0x008, s.params.kmaxBits % 2 ^ 16),
   (0x010, s.lastCmd.toNat), (0x014, statusValue s), (0x018, s.err.code.toNat),
   (0x01C, s.err.index.toNat), (0x020, s.err.offset.toNat), (0x024, s.err.expected.toNat),
   (0x028, s.err.actual.toNat), (0x02C, s.irqEn.toNat), (0x030, s.donePend.toNat)] ++
  [(0x040, s.operand.srcAddr.toNat), (0x044, s.operand.srcLen.toNat),
   (0x048, s.operand.dstAddr.toNat), (0x04C, s.operand.dstLen.toNat),
   (0x050, s.operand.extAddr.toNat), (0x054, s.operand.extLen.toNat), (0x058, s.out.len.toNat),
   (0x05C, s.out.extLen.toNat)] ++
  [(0x060, s.framer.cursor.toNat), (0x064, s.framer.chLen.toNat), (0x068, s.framer.chType.toNat),
   (0x06C, s.framer.chCrc.toNat), (0x070, s.framer.chCrcCalc.toNat),
   (0x074, s.framer.chDataAddr.toNat), (0x078, s.framer.crcPlaceholder.toNat),
   (0x080, s.framer.docNchunks.toNat), (0x084, s.framer.docTrailOff.toNat),
   (0x088, s.framer.docTrailLen.toNat), (0x08C, s.framer.docFlags.toNat),
   (0x090, s.framer.docCrcBad.toNat)] ++
  [(0x0A0, s.filter.width.toNat), (0x0A4, s.filter.height.toNat), (0x0A8, s.filter.bpp.toNat),
   (0x0B0, s.cipher.keyBits.toNat), (0x0B4, s.cipher.keyAddr.toNat), (0x0B8, s.cipher.ivAddr.toNat),
   (0x0BC, s.cipher.plainLen.toNat), (0x0C0, s.key.kb % 2 ^ 32), (0x0C4, (s.key.kb - 1) % 2 ^ 32)]

/-- The RW registers of the map: each offset, with the state after `v` is stored there (10_state.md R20,
R43 to R45, R47 to R50, R53, R58 to R63). -/
def writableMap (s : State) (v : Word) : List (Nat × State) :=
  [(0x040, { s with operand := { s.operand with srcAddr := v } }),
   (0x044, { s with operand := { s.operand with srcLen := v } }),
   (0x048, { s with operand := { s.operand with dstAddr := v } }),
   (0x04C, { s with operand := { s.operand with dstLen := v } }),
   (0x050, { s with operand := { s.operand with extAddr := v } }),
   (0x054, { s with operand := { s.operand with extLen := v } })] ++
  [(0x060, { s with framer := { s.framer with cursor := v } }),
   (0x064, { s with framer := { s.framer with chLen := v } }),
   (0x068, { s with framer := { s.framer with chType := v } }),
   (0x06C, { s with framer := { s.framer with chCrc := v } }),
   (0x078, { s with framer := { s.framer with crcPlaceholder := v } })] ++
  [(0x0A0, { s with filter := { s.filter with width := v } }),
   (0x0A4, { s with filter := { s.filter with height := v } }),
   (0x0A8, { s with filter := { s.filter with bpp := v } }),
   (0x0B0, { s with cipher := { s.cipher with keyBits := v } }),
   (0x0B4, { s with cipher := { s.cipher with keyAddr := v } }),
   (0x0B8, { s with cipher := { s.cipher with ivAddr := v } }),
   (0x0BC, { s with cipher := { s.cipher with plainLen := v } })]

/-! ### Resets and documents -/

/-- Every register, flag and internal state is at its reset value (10_state.md R72). -/
def AtResetValues (t : State) : Prop :=
  readReg .id t = 0x50434631#32 ∧
  readReg .cfgMem t = BitVec.ofNat 32 t.params.memBytes ∧
  readReg .cfgKey t = BitVec.ofNat 32 (t.params.kmaxBits % 2 ^ 16) ∧
  (∀ r : Reg, r ≠ .id → r ≠ .cfgMem → r ≠ .cfgKey → readReg r t = 0#32) ∧
  t.phase = .idle ∧ (t.key.kn = 0 ∧ t.key.ke = 0 ∧ t.key.kd = 0 ∧ t.key.kb = 0) ∧ t.irq = false

/-- One chunk of a document: its type, data and stored CRC. -/
structure DocChunk where
  type : Bytes
  data : Bytes
  crc : Word
  deriving DecidableEq, Repr

/-- The bytes of its record (41_framer.md R172). -/
def DocChunk.image (k : DocChunk) : Bytes :=
  beBytes 4 k.data.length ++ k.type ++ k.data ++ beBytes 4 k.crc.toNat

/-- The stored CRC differs from the CRC of type and data (41_framer.md R178). -/
def DocChunk.bad (k : DocChunk) : Bool := k.crc != crc32 (k.type ++ k.data)

/-- The bytes of the records of a document, in order. -/
def docImage (ks : List DocChunk) : Bytes := ks.flatMap DocChunk.image

/-- The descriptor table of records that start at offset `pos` (41_framer.md R180). -/
def descriptorTable : Nat → List DocChunk → Bytes
  | _, [] => []
  | pos, k :: ks =>
    leBytes 4 pos ++ leBytes 4 k.data.length ++ k.type ++ leBytes 4 k.crc.toNat ++
      descriptorTable (pos + 12 + k.data.length) ks

/-- Every chunk has four type bytes. -/
def TypesLegal (ks : List DocChunk) : Prop := ∀ k ∈ ks, k.type.length = 4

end Sys2Proof.Machine
end

