-- ==== Sys2Proof/Certificates/Slice0/Obligations.lean ====
section
/-! DEFINITION. The statements for the provers. Each docstring names the rules of spec/ it comes from. -/

open Sys2Proof Sys2Proof.Machine

/-! ### Encoding and issue -/

/-- 30_encoding.md R113: the 18 words of the table, written out, decode to their commands. -/
def Obligations.TableWordsDecode : Prop :=
  decode 0b00000000000000000000000000000000#32 = .ok .nop ∧
  decode 0b00000000000000000000000000000001#32 = .ok .frReadChunk ∧
  decode 0b00000000000000000000000000000010#32 = .ok .frParseDoc ∧
  decode 0b00000000000000000000000000000011#32 = .ok .frWriteChunkStored ∧
  decode 0b00000000000000000000000100000011#32 = .ok .frWriteChunkRecomp ∧
  decode 0b00000000000000000000001000000011#32 = .ok .frWriteChunkPlace ∧
  decode 0b00000000000000000000000000000100#32 = .ok .frCrcChunk ∧
  decode 0b00000000000000000000000000000101#32 = .ok .frWriteSig ∧
  decode 0b00000000000000000000000000010000#32 = .ok .sfDefilter ∧
  decode 0b00000000000000000000000000010001#32 = .ok .sfRefilterNone ∧
  decode 0b00000000000000000000000000100000#32 = .ok .rcLoadKey ∧
  decode 0b00000000000000000000000000100001#32 = .ok .rcEcbEnc ∧
  decode 0b00000000000000000000000000100010#32 = .ok .rcEcbDec ∧
  decode 0b00000000000000000000000000100011#32 = .ok .rcCfbEnc ∧
  decode 0b00000000000000000000000000100100#32 = .ok .rcCfbDec ∧
  decode 0b00000000000000000000000000100101#32 = .ok .rcModexpE ∧
  decode 0b00000000000000000000000100100101#32 = .ok .rcModexpD ∧
  decode 0b00000000000000000000000000100110#32 = .ok .rcClearKey

/-- 30_encoding.md R111: a word decodes to a command exactly when it is that command's word, no two
commands share a word, a command's word has the fields of R110, and every other word performs the
fault ILLEGAL_COMMAND. -/
def Obligations.DecodeIsExactMatch : Prop :=
  (∀ (w : Word) (i : Instr), decode w = .ok i ↔ encode i = w) ∧
  (∀ i j : Instr, encode i = encode j → i = j) ∧
  (∀ i : Instr, (encode i).toNat = i.op.toNat + 256 * i.mode.toNat) ∧
  (∀ (w : Word) (s : State), (∀ i, encode i ≠ w) →
    performWord w s = .next (s.faulted 0x01 0 0 0 0 w.toNat))

/-- 30_encoding.md R115: the words that are no command are exactly those with an unlisted OP, a listed
OP with an unlisted MODE, or a nonzero RSV bit (`CmdFields.wf`); such a word is accepted like any
command and completes with ILLEGAL_COMMAND, changing no memory. -/
def Obligations.IllegalWordsAreAcceptedAndFault : Prop :=
  (∀ w : Word, (∃ i, decode w = .ok i) ↔ (CmdFields.ofWord w).wf = true) ∧
  (∀ (w : Word) (s : State) (rest : List Event), (CmdFields.ofWord w).wf = false → s.phase = .idle →
    s.script = .bus (.write 0x010 4 w.toNat) :: .engine :: rest →
    ∃ t u, step s = .next t ∧ t.phase = .busy w ∧ t.lastCmd = w ∧ step t = .next u ∧
      u = ({ t with script := rest } : State).faulted 0x01 0 0 0 0 w.toNat ∧ u.mem = s.mem)

/-- 40_common.md R140 and R145: when the engine moves while Busy(w), the step is the meaning of the
command that w decodes to; a word placed with `withFetchWord` (log entry 4) is performed by the very
next step, on the state that its acceptance leaves. -/
def Obligations.StepRunsTheDecodedCommand : Prop :=
  (∀ (s : State) (w : Word) (i : Instr), s.phase = .busy w → decode w = .ok i →
    (s.script = [] → step s = exec i s) ∧
    (∀ rest, s.script = .engine :: rest → step s = exec i { s with script := rest })) ∧
  (∀ (s : State) (w : Nat) (i : Instr), w < 2 ^ 32 → decode (BitVec.ofNat 32 w) = .ok i →
    step (s.withFetchWord 32 w) =
      exec i { s with
        lastCmd := BitVec.ofNat 32 w
        status := { s.status with done := false, err := false, blockGeN := false, dropNz := false }
        phase := .busy (BitVec.ofNat 32 w) })

/-- 40_common.md R144 to R146 and 60_exceptions.md R322: every command answers a next state that is Idle
with DONE and DONE_PEND set, either a success with a zero error report or a fault with a nonzero code
and zero output lengths; and every step of the machine answers a next state. That none stops is the
model's inference from these rules (log entry 16, DEDUCED), not a sentence of the spec. -/
def Obligations.EveryCommandCompletes : Prop :=
  (∀ (i : Instr) (s : State), ∃ t, exec i s = .next t ∧
    t.phase = .idle ∧ t.status.done = true ∧ t.donePend = true ∧
    ((t.status.err = s.status.err ∧
        t.err = { code := 0#32, index := 0#32, offset := 0#32, expected := 0#32, actual := 0#32 }) ∨
     (t.status.err = true ∧ t.err.code ≠ 0#32 ∧ t.out = { len := 0#32, extLen := 0#32 }))) ∧
  (∀ s : State, ∃ t, step s = .next t)

/-- 40_common.md R141: a host write of w to CMD while Idle is accepted in one step, and nothing else
changes. -/
def Obligations.CmdWriteIsAccepted : Prop :=
  ∀ (s : State) (w : Nat) (rest : List Event), s.phase = .idle →
    s.script = .bus (.write 0x010 4 w) :: rest →
    step s = .next { s with
      lastCmd := BitVec.ofNat 32 w
      status := { s.status with done := false, err := false, blockGeN := false, dropNz := false }
      phase := .busy (BitVec.ofNat 32 w)
      script := rest
      answers := .ok :: s.answers }

/-- 40_common.md R142 and R143: while Busy, a write to CMD or to any other offset of the register block
but CTRL and IRQ_STATUS changes nothing but BUSY_WRITE. In any phase (10_state.md R41, R42): a write to
CTRL without SOFT_RESET stores bit 0 in IRQ_EN, clears the two sticky bits if bit 2 is set, and changes
nothing else; one with SOFT_RESET resets (`SoftResetKeepsMemory` says more); a write to IRQ_STATUS clears
DONE_PEND if bit 0 is set, and changes nothing else; a read of a register answers its current value. -/
def Obligations.BusyRegisterWritesAreDropped : Prop :=
  ∀ (s : State) (rest : List Event),
    (∀ (w : Word) (off v : Nat), s.phase = .busy w →
      off % 4 = 0 → off < 0x1000 → off ≠ 0x02C → off ≠ 0x030 →
      s.script = .bus (.write off 4 v) :: rest →
      step s = .next { s with
        status := { s.status with busyWrite := true }
        script := rest
        answers := .ok :: s.answers }) ∧
    (∀ v : Nat, v / 2 % 2 = 0 → s.script = .bus (.write 0x02C 4 v) :: rest →
      step s = .next { s with
        irqEn := decide (v % 2 = 1)
        status := { s.status with
          busyWrite := s.status.busyWrite && decide (v / 4 % 2 = 0)
          bufBlocked := s.status.bufBlocked && decide (v / 4 % 2 = 0) }
        script := rest
        answers := .ok :: s.answers }) ∧
    (∀ v : Nat, v / 2 % 2 = 1 → s.script = .bus (.write 0x02C 4 v) :: rest →
      ∃ t, step s = .next t ∧ AtResetValues t ∧ t.answers = .ok :: s.answers) ∧
    (∀ v : Nat, s.script = .bus (.write 0x030 4 v) :: rest →
      step s = .next { s with
        donePend := s.donePend && decide (v % 2 = 0)
        script := rest
        answers := .ok :: s.answers }) ∧
    (∀ r : Reg, s.script = .bus (.read r.offset 4) :: rest →
      step s = .next { s with
        script := rest
        answers := .value (readReg r s).toNat :: s.answers })

/-- 20_memory.md R84: while Busy, every transaction of 1, 2 or 4 bytes to the buffer, aligned or not,
answers BusError, sets BUF_BLOCKED, returns no data and changes nothing else. (A misaligned one is
also under R83, whose "changes no state" gives way to R84's "every": the model's inference, log entry
8, DEDUCED.) -/
def Obligations.BusyBlocksTheBuffer : Prop :=
  ∀ (s : State) (w : Word) (rest : List Event) (off size v : Nat) (t : Transaction),
    s.phase = .busy w → (size = 1 ∨ size = 2 ∨ size = 4) →
    0x01000000 ≤ off → off + size ≤ 0x01000000 + s.params.memBytes →
    (t = .read off size ∨ t = .write off size v) → s.script = .bus t :: rest →
    step s = .next { s with
      status := { s.status with bufBlocked := true }
      script := rest
      answers := .busError :: s.answers }

/-- 20_memory.md R95: a host read changes no register and no memory; the only trace it can leave is
BUF_BLOCKED, and only while Busy (R84). -/
def Obligations.HostReadsChangeNothing : Prop :=
  ∀ (s t : State) (off size : Nat) (rest : List Event),
    s.script = .bus (.read off size) :: rest → step s = .next t →
    t = { s with
      status := { s.status with bufBlocked := t.status.bufBlocked }
      script := rest
      answers := t.answers } ∧
    (s.phase = .idle → t.status.bufBlocked = s.status.bufBlocked) ∧
    (s.status.bufBlocked = true → t.status.bufBlocked = true)

/-- 60_exceptions.md R330: which transactions answer BusError, and that such an answer is no fault: no
ERR_ field, ERR, DONE_PEND or irq, no register and no byte changes; a buffer access while Busy sets
BUF_BLOCKED, and nothing else does. Three of these points are the model's inference: that a misaligned
buffer access while Busy sets BUF_BLOCKED (log entry 8), that a narrow or misaligned register write
while Busy sets no BUSY_WRITE (log entry 9), and that a transaction which straddles an edge of the buffer
sets neither (log entry 17). -/
def Obligations.BusErrorIsNoFault : Prop :=
  ∀ (s u : State) (rest : List Event) (off size v : Nat) (t : Transaction),
    (size = 1 ∨ size = 2 ∨ size = 4) → (t = .read off size ∨ t = .write off size v) →
    s.script = .bus t :: rest → step s = .next u →
    (u.answers = .busError :: s.answers ↔
      (¬ off + size ≤ 0x1000 ∧
          ¬ (0x01000000 ≤ off ∧ off + size ≤ 0x01000000 + s.params.memBytes)) ∨
      (off + size ≤ 0x1000 ∧ ¬ (size = 4 ∧ off % 4 = 0)) ∨
      ((0x01000000 ≤ off ∧ off + size ≤ 0x01000000 + s.params.memBytes) ∧
        (off % size ≠ 0 ∨ s.phase ≠ .idle))) ∧
    (u.answers = .busError :: s.answers →
      u = { s with
        status := { s.status with bufBlocked := u.status.bufBlocked }
        script := rest
        answers := .busError :: s.answers } ∧
      u.irq = s.irq ∧
      ((s.phase ≠ .idle ∧ 0x01000000 ≤ off ∧ off + size ≤ 0x01000000 + s.params.memBytes →
          u.status.bufBlocked = true) ∧
        (¬ (s.phase ≠ .idle ∧ 0x01000000 ≤ off ∧ off + size ≤ 0x01000000 + s.params.memBytes) →
          u.status.bufBlocked = s.status.bufBlocked)))

/-- 20_memory.md R83: while Idle, an aligned buffer read answers the little-endian value, an aligned
write stores the little-endian bytes, and a misaligned access answers BusError and changes no state. -/
def Obligations.BufferAccessIsLittleEndian : Prop :=
  ∀ (s : State) (rest : List Event) (a size v : Nat),
    s.phase = .idle → (size = 1 ∨ size = 2 ∨ size = 4) → a + size ≤ s.params.memBytes →
    (a % size = 0 → s.script = .bus (.read (0x01000000 + a) size) :: rest →
      step s = .next { s with
        script := rest
        answers := .value
          ((List.range size).map fun i => (s.readByte (a + i)).toNat * 256 ^ i).sum :: s.answers }) ∧
    (a % size = 0 → s.script = .bus (.write (0x01000000 + a) size v) :: rest →
      ∃ t, step s = .next t ∧
        t = { s with mem := t.mem, script := rest, answers := .ok :: s.answers } ∧
        StoredExactly s t a ((List.range size).map fun i => BitVec.ofNat 8 (v / 256 ^ i))) ∧
    (a % size ≠ 0 → ∀ t : Transaction,
      (t = .read (0x01000000 + a) size ∨ t = .write (0x01000000 + a) size v) →
      s.script = .bus t :: rest →
      step s = .next { s with script := rest, answers := .busError :: s.answers })

/-- 20_memory.md R82, with the classes of 10_state.md R20: while Idle an RW register keeps every bit
written to it and no other register changes; in any phase a write to an RO register or a reserved
offset answers Ok and is ignored (while Busy it sets BUSY_WRITE), a register reads its value, a
reserved offset reads 0, and an access that is not 4 bytes at a multiple of 4 answers BusError and
changes no state. That such a write sets no BUSY_WRITE while Busy is the model's inference (log entry 9,
DEDUCED). `RegisterMap` writes the map out. -/
def Obligations.RegisterAccess : Prop :=
  ∀ (s : State) (rest : List Event),
    (∀ (r : Reg) (v : Nat), s.phase = .idle → r.isRW = true →
      s.script = .bus (.write r.offset 4 v) :: rest →
      ∃ t, step s = .next t ∧
        t = { s with
          operand := t.operand, framer := t.framer, filter := t.filter, cipher := t.cipher
          script := rest, answers := .ok :: s.answers } ∧
        readReg r t = BitVec.ofNat 32 v ∧ ∀ q : Reg, q ≠ r → readReg q t = readReg q s) ∧
    (∀ off v : Nat, off % 4 = 0 → off < 0x1000 → off ≠ 0x010 → off ≠ 0x02C → off ≠ 0x030 →
      (∀ r : Reg, r.isRW = true → r.offset ≠ off) → s.script = .bus (.write off 4 v) :: rest →
      ∃ t, step s = .next t ∧
        t = { s with
          status := { s.status with busyWrite := t.status.busyWrite }
          script := rest
          answers := .ok :: s.answers } ∧
        (s.phase = .idle → t.status.busyWrite = s.status.busyWrite) ∧
        (s.phase ≠ .idle → t.status.busyWrite = true)) ∧
    (∀ r : Reg, s.script = .bus (.read r.offset 4) :: rest →
      step s = .next { s with
        script := rest, answers := .value (readReg r s).toNat :: s.answers }) ∧
    (∀ off : Nat, off % 4 = 0 → off < 0x1000 → (∀ r : Reg, r.offset ≠ off) →
      s.script = .bus (.read off 4) :: rest →
      step s = .next { s with script := rest, answers := .value 0 :: s.answers }) ∧
    (∀ (off size v : Nat) (t : Transaction), off + size ≤ 0x1000 → ¬ (size = 4 ∧ off % 4 = 0) →
      (size = 1 ∨ size = 2 ∨ size = 4) → (t = .read off size ∨ t = .write off size v) →
      s.script = .bus t :: rest →
      step s = .next { s with script := rest, answers := .busError :: s.answers })

/-- 60_exceptions.md R328: irq is CTRL.IRQ_EN and DONE_PEND; writing CTRL (without SOFT_RESET), in any
phase, masks or unmasks it and leaves DONE_PEND alone, so a completion that happened while IRQ_EN was
0 raises irq when IRQ_EN is set. -/
def Obligations.InterruptIsALevel : Prop :=
  ∀ s : State, s.irq = (s.irqEn && s.donePend) ∧
    ∀ (v : Nat) (rest : List Event), v / 2 % 2 = 0 → s.script = .bus (.write 0x02C 4 v) :: rest →
      ∃ t, step s = .next t ∧ t.donePend = s.donePend ∧ t.irq = (decide (v % 2 = 1) && s.donePend)

/-- 60_exceptions.md R327: every completion sets DONE_PEND, nothing else does, and it stays 1 until the
host writes 1 to IRQ_STATUS bit 0 or a soft or hardware reset arrives. -/
def Obligations.DonePendLifetime : Prop :=
  ∀ s t : State, step s = .next t →
    (s.donePend = true → t.donePend = false →
      (∃ v rest, s.script = .bus (.write 0x030 4 v) :: rest ∧ v % 2 = 1) ∨
      (∃ v rest, s.script = .bus (.write 0x02C 4 v) :: rest ∧ v / 2 % 2 = 1) ∨
      (∃ rest, s.script = .hardReset :: rest)) ∧
    (∀ w, s.phase = .busy w → (s.script = [] ∨ ∃ rest, s.script = .engine :: rest) →
      t.donePend = true) ∧
    (s.donePend = false → t.donePend = true →
      (∃ w, s.phase = .busy w) ∧ t.phase = .idle ∧
        (s.script = [] ∨ ∃ rest, s.script = .engine :: rest))

/-- 10_state.md R25 and R26: the bits of the STATUS register; BUSY is 1 exactly while the phase is Busy,
and bits 31..10 read 0. -/
def Obligations.StatusWordLayout : Prop :=
  ∀ s : State,
    ((readReg .status s).getLsbD 0 = true ↔ ∃ w, s.phase = .busy w) ∧
    (readReg .status s).getLsbD 1 = s.status.done ∧
    (readReg .status s).getLsbD 2 = s.status.err ∧
    (readReg .status s).getLsbD 3 = s.status.keyValid ∧
    (readReg .status s).getLsbD 4 = s.status.crcMatch ∧
    (readReg .status s).getLsbD 5 = s.status.keyNarrow ∧
    (readReg .status s).getLsbD 6 = s.status.blockGeN ∧
    (readReg .status s).getLsbD 7 = s.status.dropNz ∧
    (readReg .status s).getLsbD 8 = s.status.busyWrite ∧
    (readReg .status s).getLsbD 9 = s.status.bufBlocked ∧
    ∀ k, 10 ≤ k → (readReg .status s).getLsbD k = false

/-- 30_encoding.md R119: a WAIT ends: from any state whose schedule begins with it, at most three steps
lead to a state that is Idle with the rest of the schedule (with the turn the model gives the engine
after a poll that saw BUSY, log entry 3). -/
def Obligations.WaitTerminates : Prop :=
  ∀ (s : State) (rest : List Event), s.script = .wait :: rest →
    ∃ n t, n ≤ 3 ∧ Sys2Proof.core.run n s = .next t ∧ State.phase t = .idle ∧ State.script t = rest

/-! ### Reset -/

/-- 10_state.md R72: after the first reset, after a hardware reset and after a soft reset, in any state,
every register, the phase, the key and irq are at their reset values; the parameters of the reset
state are legal. -/
def Obligations.EveryResetLeavesResetValues : Prop :=
  (AtResetValues State.reset ∧ State.reset.params.Legal) ∧
  (∀ (s : State) (rest : List Event), s.script = .hardReset :: rest →
    ∃ t, step s = .next t ∧ AtResetValues t ∧ t.params = s.params) ∧
  (∀ (s : State) (v : Nat) (rest : List Event), v / 2 % 2 = 1 →
    s.script = .bus (.write 0x02C 4 v) :: rest →
    ∃ t, step s = .next t ∧ AtResetValues t ∧ t.params = s.params)

/-- 70_reset_and_hazards.md R362 and R363: a soft reset answers Ok, sets every register, the phase and the
key to the reset values and raises no completion; while Idle it keeps every byte; while Busy(w) it
keeps every byte outside w's write regions at full capacity, and each byte inside them is a fresh free
draw (none when w is no command); a hardware reset makes every byte a fresh free draw. -/
def Obligations.SoftResetKeepsMemory : Prop :=
  (∀ (s : State) (v : Nat) (rest : List Event), v / 2 % 2 = 1 →
    s.script = .bus (.write 0x02C 4 v) :: rest →
    ∃ t, step s = .next t ∧ t.script = rest ∧ t.answers = .ok :: s.answers ∧ AtResetValues t ∧
      t.status.done = false ∧ t.status.err = false ∧ t.donePend = false ∧ t.phase = .idle ∧
      (s.phase = .idle → ∀ x, t.readByte x = s.readByte x) ∧
      (∀ w, s.phase = .busy w → ∀ x,
        (∀ i, decode w = .ok i → ∀ r ∈ regions i s, r.writes = true →
          ¬ (r.addr ≤ x ∧ x < r.addr + r.len)) →
        t.readByte x = s.readByte x) ∧
      (∀ w i, s.phase = .busy w → decode w = .ok i → ∀ r ∈ regions i s, r.writes = true → ∀ x,
        r.addr ≤ x → x < r.addr + r.len → x < s.params.memBytes →
        ∃ n, s.draws ≤ n ∧ n < t.draws ∧ t.readByte x = Config.freeByte n x)) ∧
  (∀ (s : State) (rest : List Event), s.script = .hardReset :: rest →
    ∃ t, step s = .next t ∧ AtResetValues t ∧ ∀ x, t.readByte x = Config.freeByte s.draws x)

/-- 70_reset_and_hazards.md R360: a hardware reset in any phase sets every piece of state to its reset
value, abandons the command in progress, and leaves every byte of the buffer a fresh free draw. -/
def Obligations.HardResetDrawsMemory : Prop :=
  ∀ (s : State) (rest : List Event), s.script = .hardReset :: rest →
    ∃ t, step s = .next t ∧ AtResetValues t ∧ t.params = s.params ∧ t.script = rest ∧
      t.answers = s.answers ∧ s.draws < t.draws ∧
      ∀ x, t.readByte x = Config.freeByte s.draws x

/-- The reset state meets the invariant of the model. -/
def Obligations.ResetMeetsInvariant : Prop := State.reset.Inv

/-! ### Invariants and whole-machine rules -/

/-- Every step keeps the memory in its canonical form and inside the buffer, whatever the agents do. -/
def Obligations.StepKeepsMemoryOk : Prop :=
  ∀ s t : State, s.MemoryOk → step s = .next t → t.MemoryOk

/-- 10_state.md R29, R31, R66: every step keeps the key registers legal and KEY_NARROW true to them. -/
def Obligations.StepKeepsKeyOk : Prop :=
  ∀ s t : State, s.params.Legal → s.KeyOk → step s = .next t → t.KeyOk

/-- 10_state.md R27, R28, R32, R33, R36, R56: every step keeps STATUS and the error report in agreement
with the phase. -/
def Obligations.StepKeepsStatusOk : Prop :=
  ∀ s t : State, s.StatusOk → step s = .next t → t.StatusOk

/-- 10_state.md R29 and R66: the key registers, KEY_VALID and KEY_NARROW change only in the engine's step
of RC_LOAD_KEY or RC_CLEAR_KEY or in a reset. -/
def Obligations.KeyChangesOnlyByKeyCommands : Prop :=
  ∀ s t : State, step s = .next t →
    (t.key ≠ s.key ∨ t.status.keyValid ≠ s.status.keyValid ∨
      t.status.keyNarrow ≠ s.status.keyNarrow) →
    (∃ w, s.phase = .busy w ∧ (decode w = .ok .rcLoadKey ∨ decode w = .ok .rcClearKey) ∧
      (s.script = [] ∨ ∃ rest, s.script = .engine :: rest)) ∨
    (∃ v rest, s.script = .bus (.write 0x02C 4 v) :: rest ∧ v / 2 % 2 = 1) ∨
    (∃ rest, s.script = .hardReset :: rest)

/-- 10_state.md R66 and 60_exceptions.md R331: no host transaction's answer depends on KN, KE or KD. -/
def Obligations.HostCannotReadTheKey : Prop :=
  ∀ (s : State) (t : Transaction) (kn ke kd : Nat),
    (transact t { s with key := { s.key with kn := kn, ke := ke, kd := kd } }).1 = (transact t s).1

/-- What no command changes, and which commands may change the rest (10_state.md R24, R30, R41, R43 to
R45, R47 to R63): the frame of every command. -/
def Obligations.EveryCommandKeepsItsFrame : Prop :=
  ∀ (i : Instr) (s t : State), exec i s = .next t →
    (t.params = s.params ∧ t.lastCmd = s.lastCmd ∧ t.irqEn = s.irqEn ∧ t.operand = s.operand ∧
      t.filter = s.filter ∧ t.cipher = s.cipher ∧ t.script = s.script ∧ t.answers = s.answers ∧
      t.memDraw = s.memDraw ∧ t.status.busyWrite = s.status.busyWrite ∧
      t.status.bufBlocked = s.status.bufBlocked ∧
      t.framer.crcPlaceholder = s.framer.crcPlaceholder) ∧
    (i ≠ .frReadChunk →
      t.framer.cursor = s.framer.cursor ∧ t.framer.chLen = s.framer.chLen ∧
      t.framer.chType = s.framer.chType ∧ t.framer.chCrc = s.framer.chCrc ∧
      t.framer.chDataAddr = s.framer.chDataAddr) ∧
    (i ≠ .frReadChunk → i ≠ .frWriteChunkRecomp → i ≠ .frCrcChunk →
      t.framer.chCrcCalc = s.framer.chCrcCalc) ∧
    (i ≠ .frParseDoc →
      t.framer.docNchunks = s.framer.docNchunks ∧ t.framer.docTrailOff = s.framer.docTrailOff ∧
      t.framer.docTrailLen = s.framer.docTrailLen ∧ t.framer.docFlags = s.framer.docFlags ∧
      t.framer.docCrcBad = s.framer.docCrcBad) ∧
    (i ≠ .rcLoadKey → i ≠ .rcClearKey →
      t.key = s.key ∧ t.status.keyValid = s.status.keyValid ∧
      t.status.keyNarrow = s.status.keyNarrow) ∧
    (i ≠ .rcEcbEnc → i ≠ .rcEcbDec → i ≠ .rcModexpE → i ≠ .rcModexpD →
      t.status.blockGeN = s.status.blockGeN) ∧
    (i ≠ .rcEcbDec → t.status.dropNz = s.status.dropNz)

/-- 10_state.md R30: CRC_MATCH is written only by a successful FR_READ_CHUNK, FR_PARSE_DOC or
FR_CRC_CHUNK; every other command, and every fault, that of a word that is no command among them,
leaves it. -/
def Obligations.CrcMatchWrittenOnlyByThreeCommands : Prop :=
  ∀ (w : Word) (s t : State), s.status.err = false → performWord w s = .next t →
    ((decode w ≠ .ok .frReadChunk ∧ decode w ≠ .ok .frParseDoc ∧ decode w ≠ .ok .frCrcChunk) ∨
      t.status.err = true) →
    t.status.crcMatch = s.status.crcMatch

/-- 60_exceptions.md R322: a fault writes the error report, zeroes the output lengths, completes the
command, and changes nothing else, but that RC_LOAD_KEY also clears the key; memory is unchanged, but
that an execution fault of FR_PARSE_DOC (any but ADDR_RANGE, REGION_OVERLAP and BAD_SIGNATURE) may
leave its DST region unspecified. -/
def Obligations.FaultsChangeNothingElse : Prop :=
  ∀ (i : Instr) (s t : State), s.status.err = false → exec i s = .next t → t.status.err = true →
    ∃ code sub index offset expected actual : Nat,
      1 ≤ code ∧ code ≤ 13 ∧ sub < 256 ∧
      ((i ≠ .frParseDoc ∨ code = 0x04 ∨ code = 0x05 ∨ code = 0x07) →
        t = (faultBase i s).faulted code sub index offset expected actual) ∧
      (i = .frParseDoc →
        t = ({ s with mem := t.mem, draws := t.draws } : State).faulted code sub index offset
          expected actual ∧
        UnchangedOutside s t s.operand.dstAddr.toNat s.operand.dstLen.toNat)

/-- 20_memory.md R88: no command, whether it succeeds or faults, changes a byte of a region it only reads. -/
def Obligations.SourceIsNeverWritten : Prop :=
  ∀ (i : Instr) (s t : State), exec i s = .next t →
    ∀ r ∈ regions i s, r.writes = false → ∀ x, r.addr ≤ x → x < r.addr + r.len →
      t.readByte x = s.readByte x

/-- 20_memory.md R89: a command that succeeds changes no byte outside the first OUT_LEN bytes of DST and
the first OUT_EXT_LEN bytes of EXT. -/
def Obligations.SuccessWritesOnlyItsOutputs : Prop :=
  ∀ (i : Instr) (s t : State), s.status.err = false → exec i s = .next t → t.status.err = false →
    ∀ x,
      ¬ (s.operand.dstAddr.toNat ≤ x ∧ x < s.operand.dstAddr.toNat + t.out.len.toNat) →
      ¬ (s.operand.extAddr.toNat ≤ x ∧ x < s.operand.extAddr.toNat + t.out.extLen.toNat) →
      t.readByte x = s.readByte x

/-- 20_memory.md R86 (details of 60_exceptions.md R321): the regions come in the order SRC, DST, EXT, KEY,
IV, and the first one that is not in range is reported as ADDR_RANGE; with all in range no ADDR_RANGE is
reported. Which regions each command has, with their ids, addresses, lengths and directions, is written
out (`RegionsWrittenOut`: 41_framer.md R173, R176, R185 to R187; 42_filter.md R229, R231; 43_cipher.md
R261, R266 to R271). -/
def Obligations.AddrRangeIsReported : Prop :=
  ∀ (i : Instr) (s : State),
    RegionsWrittenOut s ∧
    (regions i s).Pairwise (fun r q => r.id.num < q.id.num) ∧
    (EarlyChecksPass i s → ∀ (before after : List Region) (r : Region),
      regions i s = before ++ r :: after →
      (∀ q ∈ before, q.len = 0 ∨ q.addr + q.len ≤ s.params.memBytes) →
      r.len ≠ 0 → s.params.memBytes < r.addr + r.len →
      exec i s = .next
        ((faultBase i s).faulted 0x04 r.id.num 0 0 s.params.memBytes (r.addr + r.len))) ∧
    ((∀ r ∈ regions i s, r.len = 0 ∨ r.addr + r.len ≤ s.params.memBytes) →
      ∃ t, exec i s = .next t ∧ t.err.code.toNat % 256 ≠ 0x04)

/-- 20_memory.md R87 (details of 60_exceptions.md R321): with every region in range, the first overlapping
pair in the order DST-SRC, DST-EXT, DST-IV, EXT-SRC, its first region written, is reported as
REGION_OVERLAP; with no write region overlapping another region, whatever read regions overlap, no
REGION_OVERLAP is reported. -/
def Obligations.RegionOverlapIsReported : Prop :=
  ∀ (i : Instr) (s : State),
    (RegionsLegal i s → ∃ t, exec i s = .next t ∧ t.err.code.toNat % 256 ≠ 0x05) ∧
    (EarlyChecksPass i s → (∀ r ∈ regions i s, r.len = 0 ∨ r.addr + r.len ≤ s.params.memBytes) →
    ∀ (before after : List (RegionId × RegionId)) (w o : Region),
      [(RegionId.dst, RegionId.src), (.dst, .ext), (.dst, .iv), (.ext, .src)] =
        before ++ (w.id, o.id) :: after →
      w ∈ regions i s → o ∈ regions i s → w.writes = true →
      (0 < w.len ∧ 0 < o.len ∧ w.addr < o.addr + o.len ∧ o.addr < w.addr + w.len) →
      (∀ p ∈ before, ∀ w' ∈ regions i s, ∀ o' ∈ regions i s, w'.id = p.1 → o'.id = p.2 →
        w'.writes = true →
        ¬ (0 < w'.len ∧ 0 < o'.len ∧ w'.addr < o'.addr + o'.len ∧ o'.addr < w'.addr + w'.len)) →
      exec i s = .next
        ((faultBase i s).faulted 0x05 (16 * w.id.num + o.id.num) 0 0 w.addr o.addr))

/-! ### NOP and the framer -/

/-- 40_common.md R149: NOP completes with success and no outputs; issued by the host while Idle it thereby
clears ERR, BLOCK_GE_N and DROP_NZ. -/
def Obligations.NopResult : Prop :=
  (∀ s : State, exec .nop s = .next (s.succeeded 0 0)) ∧
  (∀ (s : State) (rest : List Event), s.phase = .idle →
    s.script = .bus (.write 0x010 4 0) :: .engine :: rest →
    Sys2Proof.core.run 2 s = .next
      (({ s with
          lastCmd := 0#32
          status := { s.status with err := false, blockGeN := false, dropNz := false }
          script := rest
          answers := .ok :: s.answers } : State).succeeded 0 0))

/-- 41_framer.md R173: FR_READ_CHUNK: a cursor past the stream, the region check, the truncation checks, and
its effect on a stream that holds a whole record at the cursor. -/
def Obligations.ReadChunkResult : Prop :=
  ∀ (s : State) (c : Nat), c = s.framer.cursor.toNat →
    (s.operand.srcLen.toNat < c →
      exec .frReadChunk s = .next (s.faulted 0x02 0 0 0 s.operand.srcLen.toNat c)) ∧
    (EarlyChecksPass .frReadChunk s → RegionsReported .frReadChunk s) ∧
    (RegionsLegal .frReadChunk s → ∀ r, c + r = s.operand.srcLen.toNat →
      TruncationOutcome r (fromBE (s.memRead (s.operand.srcAddr.toNat + c) 4)) fun sub expected actual =>
        exec .frReadChunk s = .next (s.faulted 0x08 sub 0 c expected actual)) ∧
    (RegionsLegal .frReadChunk s → ∀ k : DocChunk, k.type.length = 4 →
      c + 12 + k.data.length ≤ s.operand.srcLen.toNat →
      s.memRead (s.operand.srcAddr.toNat + c) (12 + k.data.length) = k.image →
      exec .frReadChunk s = .next
        (({ s with
            framer := { s.framer with
              chLen := BitVec.ofNat 32 k.data.length
              chType := BitVec.ofNat 32 (fromBE k.type)
              chCrc := k.crc
              chCrcCalc := crc32 (k.type ++ k.data)
              chDataAddr := BitVec.ofNat 32 (s.operand.srcAddr.toNat + c + 8)
              cursor := BitVec.ofNat 32 (c + 12 + k.data.length) }
            status := { s.status with crcMatch := !k.bad } } : State).succeeded 0 0))

/-- 41_framer.md R174: the four truncation checks, for FR_READ_CHUNK at its cursor (index 0) and for
FR_PARSE_DOC after the records already framed (their number is the index). -/
def Obligations.TruncationIsReported : Prop :=
  (∀ (s : State) (c r : Nat), RegionsLegal .frReadChunk s →
    c = s.framer.cursor.toNat → c + r = s.operand.srcLen.toNat →
    TruncationOutcome r (fromBE (s.memRead (s.operand.srcAddr.toNat + c) 4)) fun sub expected actual =>
      exec .frReadChunk s = .next (s.faulted 0x08 sub 0 c expected actual)) ∧
  (∀ (s : State) (ks : List DocChunk) (rest : Bytes) (c r : Nat), RegionsLegal .frParseDoc s →
    TypesLegal ks → (∀ k ∈ ks, k.type ≠ tagIEND) → 16 * ks.length ≤ s.operand.dstLen.toNat →
    s.srcBytes = signature ++ docImage ks ++ rest → rest ≠ [] → r = rest.length →
    c + r = s.operand.srcLen.toNat →
    ∃ t, exec .frParseDoc s = .next t ∧
      UnchangedOutside s t s.operand.dstAddr.toNat s.operand.dstLen.toNat ∧
      TruncationOutcome r (fromBE (rest.take 4)) fun sub expected actual =>
        t = ({ s with mem := t.mem, draws := t.draws } : State).faulted 0x08 sub ks.length c
          expected actual)

/-- 41_framer.md R176 to R180, R184: FR_PARSE_DOC on a document (signature, records up to the first IEND, an
IHDR among them, trailing bytes) whose descriptors fit the table: one descriptor a record, in stream
order, and the DOC registers. -/
def Obligations.ParseDocFramesTheDocument : Prop :=
  ∀ (s : State) (init : List DocChunk) (last : DocChunk) (trail : Bytes),
    RegionsLegal .frParseDoc s → TypesLegal (init ++ [last]) →
    (∀ k ∈ init, k.type ≠ tagIEND) → last.type = tagIEND →
    (∃ k ∈ init ++ [last], k.type = tagIHDR) →
    s.srcBytes = signature ++ docImage (init ++ [last]) ++ trail →
    16 * (init.length + 1) ≤ s.operand.dstLen.toNat →
    ∃ t, exec .frParseDoc s = .next t ∧
      StoredExactly s t s.operand.dstAddr.toNat (descriptorTable 8 (init ++ [last])) ∧
      t = ({ s with
          mem := t.mem
          framer := { s.framer with
            docNchunks := BitVec.ofNat 32 (init.length + 1)
            docTrailOff := BitVec.ofNat 32 (s.operand.srcLen.toNat - trail.length)
            docTrailLen := BitVec.ofNat 32 trail.length
            docFlags := docFlags ((init ++ [last]).map (·.type))
              ((init ++ [last]).map (·.data.length)) ((init ++ [last]).countP DocChunk.bad)
            docCrcBad := BitVec.ofNat 32 ((init ++ [last]).countP DocChunk.bad) }
          status := { s.status with
            crcMatch := decide ((init ++ [last]).countP DocChunk.bad = 0) } } : State).succeeded
        (16 * (init.length + 1)) 0

/-- 41_framer.md R183: the bits of DOC_FLAGS, from the types, lengths and bad-CRC count of the framed
chunks. -/
def Obligations.DocFlagsBits : Prop :=
  ∀ (types : List Bytes) (lens : List Nat) (bad : Nat), types ≠ [] → lens.length = types.length →
    ((docFlags types lens bad).getLsbD 0 = true ↔ types[0]? = some tagIHDR) ∧
    ((docFlags types lens bad).getLsbD 1 = true ↔ types.count tagIHDR = 1) ∧
    ((docFlags types lens bad).getLsbD 2 = true ↔ 1 ≤ types.count tagPLTE) ∧
    ((docFlags types lens bad).getLsbD 3 = true ↔ 2 ≤ types.count tagPLTE) ∧
    ((docFlags types lens bad).getLsbD 4 = true ↔ 1 ≤ types.count tagIDAT) ∧
    ((docFlags types lens bad).getLsbD 5 = true ↔
      1 ≤ types.count tagIDAT ∧
      ∀ i j k : Nat, i < j → j < k → types[i]? = some tagIDAT → types[k]? = some tagIDAT →
        types[j]? = some tagIDAT) ∧
    ((docFlags types lens bad).getLsbD 6 = true ↔ lens[types.length - 1]? ≠ some 0) ∧
    ((docFlags types lens bad).getLsbD 7 = true ↔ bad = 0) ∧
    ∀ k, 8 ≤ k → (docFlags types lens bad).getLsbD k = false

/-- 41_framer.md R177: a stream shorter than 8 bytes, and the first byte that is not the signature's. -/
def Obligations.SignatureFaults : Prop :=
  ∀ s : State, RegionsLegal .frParseDoc s →
    (s.operand.srcLen.toNat < 8 →
      exec .frParseDoc s = .next (s.faulted 0x07 0 0 0 8 s.operand.srcLen.toNat)) ∧
    (8 ≤ s.operand.srcLen.toNat → ∀ j, j < 8 →
      (∀ k, k < j → s.readByte (s.operand.srcAddr.toNat + k) =
        [0x89#8, 0x50#8, 0x4E#8, 0x47#8, 0x0D#8, 0x0A#8, 0x1A#8, 0x0A#8].getD k 0#8) →
      s.readByte (s.operand.srcAddr.toNat + j) ≠
        [0x89#8, 0x50#8, 0x4E#8, 0x47#8, 0x0D#8, 0x0A#8, 0x1A#8, 0x0A#8].getD j 0#8 →
      exec .frParseDoc s = .next
        (s.faulted 0x07 1 0 j
          ([0x89#8, 0x50#8, 0x4E#8, 0x47#8, 0x0D#8, 0x0A#8, 0x1A#8, 0x0A#8].getD j 0#8).toNat
          (s.readByte (s.operand.srcAddr.toNat + j)).toNat))

/-- 41_framer.md R178, R181, R182: the other execution faults of FR_PARSE_DOC: the stream ends at a record
boundary before any IEND; a document without IHDR; a record whose descriptor does not fit the table. -/
def Obligations.ParseDocExecutionFaults : Prop :=
  ∀ (s : State) (ks : List DocChunk), RegionsLegal .frParseDoc s → TypesLegal ks →
    (∀ k ∈ ks, k.type ≠ tagIEND) → 16 * ks.length ≤ s.operand.dstLen.toNat →
    (s.srcBytes = signature ++ docImage ks →
      ∃ t, exec .frParseDoc s = .next t ∧
        UnchangedOutside s t s.operand.dstAddr.toNat s.operand.dstLen.toNat ∧
        t = ({ s with mem := t.mem, draws := t.draws } : State).faulted
          0x09 1 ks.length s.operand.srcLen.toNat 0x49454E44 0) ∧
    (∀ (last : DocChunk) (trail : Bytes), last.type = tagIEND → (∀ k ∈ ks, k.type ≠ tagIHDR) →
      16 * (ks.length + 1) ≤ s.operand.dstLen.toNat →
      s.srcBytes = signature ++ docImage (ks ++ [last]) ++ trail →
      ∃ t, exec .frParseDoc s = .next t ∧
        UnchangedOutside s t s.operand.dstAddr.toNat s.operand.dstLen.toNat ∧
        t = ({ s with mem := t.mem, draws := t.draws } : State).faulted
          0x09 0 (ks.length + 1) 0 0x49484452 0) ∧
    (∀ (next : DocChunk) (rest : Bytes), next.type.length = 4 →
      s.operand.dstLen.toNat < 16 * (ks.length + 1) →
      s.srcBytes = signature ++ docImage (ks ++ [next]) ++ rest →
      ∃ t, exec .frParseDoc s = .next t ∧
        UnchangedOutside s t s.operand.dstAddr.toNat s.operand.dstLen.toNat ∧
        t = ({ s with mem := t.mem, draws := t.draws } : State).faulted
          0x06 1 ks.length (8 + (docImage ks).length) (16 * (ks.length + 1))
          s.operand.dstLen.toNat)

/-- 41_framer.md R185: FR_WRITE_CHUNK.STORED, .RECOMP and .PLACE write length, type, data and their CRC
field; the region checks, with DATA as SRC; a record that does not fit DST_LEN is a DST_OVERFLOW. -/
def Obligations.WriteChunkResult : Prop :=
  ∀ s : State,
    (∀ i, i = .frWriteChunkStored ∨ i = .frWriteChunkRecomp ∨ i = .frWriteChunkPlace →
      RegionsReported i s) ∧
    (RegionsLegal .frWriteChunkStored s → 12 + s.framer.chLen.toNat ≤ s.operand.dstLen.toNat →
      ∃ t, exec .frWriteChunkStored s = .next t ∧
        t = ({ s with mem := t.mem } : State).succeeded (12 + s.framer.chLen.toNat) 0 ∧
        StoredExactly s t s.operand.dstAddr.toNat
          (beBytes 4 s.framer.chLen.toNat ++ beBytes 4 s.framer.chType.toNat ++
            s.memRead s.operand.srcAddr.toNat s.framer.chLen.toNat ++
            beBytes 4 s.framer.chCrc.toNat)) ∧
    (RegionsLegal .frWriteChunkRecomp s → 12 + s.framer.chLen.toNat ≤ s.operand.dstLen.toNat →
      ∀ crc : Word, crc = crc32 (beBytes 4 s.framer.chType.toNat ++
        s.memRead s.operand.srcAddr.toNat s.framer.chLen.toNat) →
      ∃ t, exec .frWriteChunkRecomp s = .next t ∧
        t = ({ s with mem := t.mem, framer := { s.framer with chCrcCalc := crc } } : State).succeeded
          (12 + s.framer.chLen.toNat) 0 ∧
        StoredExactly s t s.operand.dstAddr.toNat
          (beBytes 4 s.framer.chLen.toNat ++ beBytes 4 s.framer.chType.toNat ++
            s.memRead s.operand.srcAddr.toNat s.framer.chLen.toNat ++ beBytes 4 crc.toNat)) ∧
    (RegionsLegal .frWriteChunkPlace s → 12 + s.framer.chLen.toNat ≤ s.operand.dstLen.toNat →
      ∃ t, exec .frWriteChunkPlace s = .next t ∧
        t = ({ s with mem := t.mem } : State).succeeded (12 + s.framer.chLen.toNat) 0 ∧
        StoredExactly s t s.operand.dstAddr.toNat
          (beBytes 4 s.framer.chLen.toNat ++ beBytes 4 s.framer.chType.toNat ++
            s.memRead s.operand.srcAddr.toNat s.framer.chLen.toNat ++
            beBytes 4 s.framer.crcPlaceholder.toNat)) ∧
    (∀ i, i = .frWriteChunkStored ∨ i = .frWriteChunkRecomp ∨ i = .frWriteChunkPlace →
      RegionsLegal i s → s.operand.dstLen.toNat < 12 + s.framer.chLen.toNat →
      exec i s = .next
        (s.faulted 0x06 1 0 0 (12 + s.framer.chLen.toNat) s.operand.dstLen.toNat))

/-- 41_framer.md R186: FR_CRC_CHUNK, and its range check on DATA, reported as SRC. -/
def Obligations.CrcChunkResult : Prop :=
  ∀ s : State, RegionsReported .frCrcChunk s ∧
    (RegionsLegal .frCrcChunk s → ∀ crc : Word,
      crc = crc32 (beBytes 4 s.framer.chType.toNat ++
        s.memRead s.operand.srcAddr.toNat s.framer.chLen.toNat) →
      exec .frCrcChunk s = .next
        (({ s with
            framer := { s.framer with chCrcCalc := crc }
            status := { s.status with crcMatch := decide (s.framer.chCrc = crc) } } : State).succeeded
          0 0))

/-- 41_framer.md R187: FR_WRITE_SIG stores the 8 signature bytes, or faults with ADDR_RANGE or
DST_OVERFLOW. -/
def Obligations.WriteSigResult : Prop :=
  ∀ s : State, RegionsReported .frWriteSig s ∧
    (RegionsLegal .frWriteSig s →
      (8 ≤ s.operand.dstLen.toNat →
        ∃ t, exec .frWriteSig s = .next t ∧ t = ({ s with mem := t.mem } : State).succeeded 8 0 ∧
          StoredExactly s t s.operand.dstAddr.toNat
            [0x89#8, 0x50#8, 0x4E#8, 0x47#8, 0x0D#8, 0x0A#8, 0x1A#8, 0x0A#8]) ∧
      (s.operand.dstLen.toNat < 8 →
        exec .frWriteSig s = .next (s.faulted 0x06 1 0 0 8 s.operand.dstLen.toNat)))

/-- 41_framer.md R188 (the spec's own inference): re-serialising the chunk just read, with SRC_ADDR at its
data, reproduces its record with .STORED, and with .RECOMP exactly if CRC_MATCH was 1. -/
def Obligations.ChunkRoundTrip : Prop :=
  ∀ (s t : State) (dst cap : Word),
    s.params.Legal → s.status.err = false → exec .frReadChunk s = .next t → t.status.err = false →
    ∀ (t' : State) (n : Nat),
      t' = { t with operand := { t.operand with
        srcAddr := t.framer.chDataAddr, dstAddr := dst, dstLen := cap } } →
      n = 12 + t.framer.chLen.toNat → RegionsLegal .frWriteChunkStored t' → n ≤ cap.toNat →
      (∃ u, exec .frWriteChunkStored t' = .next u ∧ u.out.len.toNat = n ∧
        u.memRead dst.toNat n = s.memRead (s.operand.srcAddr.toNat + s.framer.cursor.toNat) n) ∧
      (∃ u, exec .frWriteChunkRecomp t' = .next u ∧ u.out.len.toNat = n ∧
        (u.memRead dst.toNat n = s.memRead (s.operand.srcAddr.toNat + s.framer.cursor.toNat) n ↔
          t.status.crcMatch = true))

/-- 41_framer.md R171 (the spec's own inference from R170, general knowledge G1, log entry 13): check values of
CRC-32. -/
def Obligations.Crc32CheckValues : Prop :=
  crc32 [] = 0x00000000#32 ∧
  crc32 [0x00#8] = 0xD202EF8D#32 ∧
  crc32 [0x31#8, 0x32#8, 0x33#8, 0x34#8, 0x35#8, 0x36#8, 0x37#8, 0x38#8, 0x39#8] = 0xCBF43926#32 ∧
  crc32 tagIEND = 0xAE426082#32 ∧
  crc32 (tagIHDR ++ List.replicate 13 0x00#8) = 0x2E90680F#32

/-! ### The scanline filter -/

/-- 42_filter.md R229 with R220 to R228: SF_DEFILTER reconstructs every byte from its filtered byte and the
reconstructed neighbours, by the filter type of its row, and stores nothing outside the raw bytes. The predictors are the
spec's general knowledge G2 (log entry 13). -/
def Obligations.DefilterReconstructs : Prop :=
  ∀ (s : State) (bpp r h src dst : Nat),
    bpp = s.filter.bpp.toNat → r = s.filter.width.toNat * bpp → h = s.filter.height.toNat →
    src = s.operand.srcAddr.toNat → dst = s.operand.dstAddr.toNat →
    1 ≤ bpp → bpp ≤ 4 → RegionsLegal .sfDefilter s →
    s.operand.srcLen.toNat = h * (r + 1) → h * r ≤ s.operand.dstLen.toNat →
    (∀ y, y < h → (s.readByte (src + y * (r + 1))).toNat ≤ 4) →
    ∃ t, exec .sfDefilter s = .next t ∧ t = ({ s with mem := t.mem } : State).succeeded (h * r) 0 ∧
      UnchangedOutside s t dst (h * r) ∧
      ∀ y x, y < h → x < r →
        ∀ f filt a b c : Nat,
          f = (s.readByte (src + y * (r + 1))).toNat →
          filt = (s.readByte (src + y * (r + 1) + 1 + x)).toNat →
          a = (if bpp ≤ x then (t.readByte (dst + y * r + (x - bpp))).toNat else 0) →
          b = (if 1 ≤ y then (t.readByte (dst + (y - 1) * r + x)).toNat else 0) →
          c = (if bpp ≤ x ∧ 1 ≤ y then (t.readByte (dst + (y - 1) * r + (x - bpp))).toNat else 0) →
          (t.readByte (dst + y * r + x)).toNat =
            (filt + (if f = 0 then 0 else if f = 1 then a else if f = 2 then b
              else if f = 3 then (a + b) / 2 else paethPredictor a b c)) % 256

/-- 42_filter.md R229's checks 1 to 5 and R221: BPP outside 1 to 4 is BAD_PARAM before any other check of
either filter command; then the regions; then, for SF_DEFILTER, a wrong SRC_LEN is CORRUPT_PIXEL_DATA
and an output that does not fit is DST_OVERFLOW. -/
def Obligations.FilterParameterFaults : Prop :=
  ∀ (s : State) (r h n : Nat),
    r = s.filter.width.toNat * s.filter.bpp.toNat → h = s.filter.height.toNat →
    n = s.operand.srcLen.toNat →
    FilterPreamble .sfDefilter s ∧ FilterPreamble .sfRefilterNone s ∧
    (EarlyChecksPass .sfDefilter s → RegionsLegal .sfDefilter s →
      (n ≠ h * (r + 1) → exec .sfDefilter s = .next (s.faulted 0x0A 0 0 0 (h * (r + 1)) n)) ∧
      (n = h * (r + 1) → s.operand.dstLen.toNat < h * r →
        exec .sfDefilter s = .next (s.faulted 0x06 1 0 0 (h * r) s.operand.dstLen.toNat)))

/-- 42_filter.md R230: the first row whose filter-type byte is above 4 is reported, and memory is
unchanged. -/
def Obligations.BadFilterTypeIsReported : Prop :=
  ∀ (s : State) (bpp r h src y f : Nat),
    bpp = s.filter.bpp.toNat → r = s.filter.width.toNat * bpp → h = s.filter.height.toNat →
    src = s.operand.srcAddr.toNat → 1 ≤ bpp → bpp ≤ 4 → RegionsLegal .sfDefilter s →
    s.operand.srcLen.toNat = h * (r + 1) → h * r ≤ s.operand.dstLen.toNat →
    y < h → (∀ y', y' < y → (s.readByte (src + y' * (r + 1))).toNat ≤ 4) →
    f = (s.readByte (src + y * (r + 1))).toNat → 4 < f →
    exec .sfDefilter s = .next (s.faulted 0x0B 0 y (y * (r + 1)) 4 f)

/-- 42_filter.md R231: SF_REFILTER_NONE: its checks in their order, and each row written with filter type
0. -/
def Obligations.RefilterResult : Prop :=
  ∀ (s : State) (r h n src dst : Nat),
    r = s.filter.width.toNat * s.filter.bpp.toNat → h = s.filter.height.toNat →
    n = s.operand.srcLen.toNat → src = s.operand.srcAddr.toNat → dst = s.operand.dstAddr.toNat →
    FilterPreamble .sfRefilterNone s ∧
    (EarlyChecksPass .sfRefilterNone s → RegionsLegal .sfRefilterNone s →
      (n ≠ h * r → exec .sfRefilterNone s = .next (s.faulted 0x0C 3 0 0 (h * r) n)) ∧
      (n = h * r → s.operand.dstLen.toNat < h * (r + 1) →
        exec .sfRefilterNone s = .next
          (s.faulted 0x06 1 0 0 (h * (r + 1)) s.operand.dstLen.toNat)) ∧
      (n = h * r → h * (r + 1) ≤ s.operand.dstLen.toNat →
        ∃ t, exec .sfRefilterNone s = .next t ∧
          t = ({ s with mem := t.mem } : State).succeeded (h * (r + 1)) 0 ∧
          UnchangedOutside s t dst (h * (r + 1)) ∧
          ∀ y, y < h →
            t.readByte (dst + y * (r + 1)) = 0#8 ∧
            ∀ x, x < r → t.readByte (dst + y * (r + 1) + 1 + x) = s.readByte (src + y * r + x)))

/-- 42_filter.md R232 (the spec's own inference): SF_DEFILTER of the output of SF_REFILTER_NONE gives the
raw bytes back. -/
def Obligations.FilterRoundTrip : Prop :=
  ∀ (s t : State) (dst cap : Word) (p : Nat),
    s.status.err = false → exec .sfRefilterNone s = .next t → t.status.err = false →
    p = s.operand.srcLen.toNat →
    ∀ t' : State,
      t' = { t with operand := { t.operand with
        srcAddr := s.operand.dstAddr, srcLen := t.out.len, dstAddr := dst, dstLen := cap } } →
      RegionsLegal .sfDefilter t' → p ≤ cap.toNat →
      ∃ u, exec .sfDefilter t' = .next u ∧ u.out.len.toNat = p ∧ u.status.err = false ∧
        u.memRead dst.toNat p = s.memRead s.operand.srcAddr.toNat p

/-- 42_filter.md R228: the Paeth predictor is the candidate nearest to a + b - c, ties broken in the order
a, b, c (general knowledge G2, log entry 13). -/
def Obligations.PaethPicksTheNearest : Prop :=
  ∀ a b c : Nat, ∀ dist : Nat → Nat,
    dist = (fun v : Nat => ((a : Int) + (b : Int) - (c : Int) - (v : Int)).natAbs) →
    (dist a ≤ dist b ∧ dist a ≤ dist c → paethPredictor a b c = a) ∧
    (¬ (dist a ≤ dist b ∧ dist a ≤ dist c) → dist b ≤ dist c → paethPredictor a b c = b) ∧
    (¬ (dist a ≤ dist b ∧ dist a ≤ dist c) → ¬ dist b ≤ dist c → paethPredictor a b c = c) ∧
    (∀ v, v = a ∨ v = b ∨ v = c → dist (paethPredictor a b c) ≤ dist v)

/-! ### The cipher -/

/-- 00_scope.md R15: powmod is the power modulo n, with x^0 = 1; its result is below n, and x may be
reduced first. -/
def Obligations.PowmodIsThePower : Prop :=
  ∀ x y n : Nat, 1 ≤ n →
    powmod x y n = x ^ y % n ∧ powmod x 0 n = 1 % n ∧ powmod x y n < n ∧
    powmod x y n = powmod (x % n) y n

/-- 43_cipher.md R261, R262, R263: RC_LOAD_KEY loads N, e and d from the key image; KEY_BITS out of range
a key image out of range and a zero modulus are faults that clear the key; RC_CLEAR_KEY clears it. -/
def Obligations.KeyLoadAndClear : Prop :=
  ∀ (s : State) (bits b addr : Nat),
    bits = s.cipher.keyBits.toNat → b = (bits + 7) / 8 → addr = s.cipher.keyAddr.toNat →
    (9 ≤ bits → bits ≤ s.params.kmaxBits → RegionsLegal .rcLoadKey s →
      ∀ n e d : Nat, n = fromBE (s.memRead addr b) → e = fromBE (s.memRead (addr + b) b) →
        d = fromBE (s.memRead (addr + 2 * b) b) →
        (n ≠ 0 → exec .rcLoadKey s = .next
          (({ s with
              key := { kn := n, ke := e, kd := d, kb := b }
              status := { s.status with
                keyValid := true
                keyNarrow := decide (n < 2 ^ (8 * (b - 1))) } } : State).succeeded 0 0)) ∧
        (n = 0 → exec .rcLoadKey s = .next (s.withoutKey.faulted 0x0D 0 0 0 1 0))) ∧
    (bits < 9 ∨ s.params.kmaxBits < bits →
      exec .rcLoadKey s = .next (s.withoutKey.faulted 0x02 2 0 0 s.params.kmaxBits bits)) ∧
    (9 ≤ bits → bits ≤ s.params.kmaxBits → s.params.memBytes < addr + 3 * b →
      exec .rcLoadKey s = .next
        (s.withoutKey.faulted 0x04 3 0 0 s.params.memBytes (addr + 3 * b))) ∧
    exec .rcClearKey s = .next (s.withoutKey.succeeded 0 0)

/-- 43_cipher.md R265 and R274: without a key the five RSA operations fault with KEY_NOT_LOADED before any
other check; with one, a zero-length stream succeeds with empty output. -/
def Obligations.KeyCheckThenZeroLength : Prop :=
  ∀ (s : State) (i : Instr),
    (i = .rcEcbEnc ∨ i = .rcEcbDec ∨ i = .rcCfbEnc ∨ i = .rcCfbDec ∨ i = .rcModexpE ∨
      i = .rcModexpD →
      s.status.keyValid = false → exec i s = .next (s.faulted 0x03 0 0 0 1 0)) ∧
    (i = .rcEcbEnc ∨ i = .rcEcbDec ∨ i = .rcCfbEnc ∨ i = .rcCfbDec →
      s.status.keyValid = true → s.operand.srcLen = 0#32 →
      exec i s = .next (s.succeeded 0 0))

/-- 43_cipher.md R266: RC_ECB_ENC: its checks in their order, and its effect block by block. -/
def Obligations.EcbEncryptResult : Prop :=
  ∀ s : State, StreamPreamble .rcEcbEnc s ∧ ∀ (b u l k src dst ext : Nat) (m : Nat → Nat),
    b = s.key.kb → u = b - 1 → l = s.operand.srcLen.toNat → k = (l + u - 1) / u →
    src = s.operand.srcAddr.toNat → dst = s.operand.dstAddr.toNat → ext = s.operand.extAddr.toNat →
    m = (fun i => fromBE (s.memRead (src + i * u) (min u (l - i * u)))) →
    s.KeyOk → s.status.keyValid = true → 0 < l → RegionsLegal .rcEcbEnc s →
    (u * k ≤ s.operand.dstLen.toNat → k ≤ s.operand.extLen.toNat →
      ∃ t, exec .rcEcbEnc s = .next t ∧
        t = ({ s with
            mem := t.mem
            status := { s.status with blockGeN := t.status.blockGeN } } : State).succeeded (u * k) k ∧
        (t.status.blockGeN = true ↔
          s.status.blockGeN = true ∨ ∃ i, i < k ∧ s.key.kn ≤ m i) ∧
        (∀ x, ¬ (dst ≤ x ∧ x < dst + u * k) → ¬ (ext ≤ x ∧ x < ext + k) →
          t.readByte x = s.readByte x) ∧
        ∀ i, i < k → t.memRead (dst + i * u) u ++ t.memRead (ext + i) 1 =
          beBytes b (m i ^ s.key.ke % s.key.kn)) ∧
    (s.operand.dstLen.toNat < u * k →
      exec .rcEcbEnc s = .next (s.faulted 0x06 1 0 0 (u * k) s.operand.dstLen.toNat)) ∧
    (u * k ≤ s.operand.dstLen.toNat → s.operand.extLen.toNat < k →
      exec .rcEcbEnc s = .next (s.faulted 0x06 2 0 0 k s.operand.extLen.toNat))

/-- 43_cipher.md R267: RC_ECB_DEC: its checks in their order, and its effect block by block. -/
def Obligations.EcbDecryptResult : Prop :=
  ∀ s : State, StreamPreamble .rcEcbDec s ∧
    ∀ (b u n k l src dst ext : Nat) (c keep : Nat → Nat) (mb : Nat → Bytes),
    b = s.key.kb → u = b - 1 → n = s.operand.srcLen.toNat → k = n / u →
    l = s.cipher.plainLen.toNat → src = s.operand.srcAddr.toNat → dst = s.operand.dstAddr.toNat →
    ext = s.operand.extAddr.toNat →
    c = (fun i => fromBE (s.memRead (src + i * u) u ++ s.memRead (ext + i) 1)) →
    keep = (fun i => min u (l - i * u)) → mb = (fun i => beBytes b (c i ^ s.key.kd % s.key.kn)) →
    s.KeyOk → s.status.keyValid = true → 0 < n → RegionsLegal .rcEcbDec s →
    (n % u ≠ 0 → exec .rcEcbDec s = .next (s.faulted 0x0C 0 0 0 (u * ((n + u - 1) / u)) n)) ∧
    (n % u = 0 → (l ≤ u * (k - 1) ∨ u * k < l) →
      exec .rcEcbDec s = .next (s.faulted 0x0C 1 0 0 (u * k) l)) ∧
    (n % u = 0 → u * (k - 1) < l → l ≤ u * k → s.operand.extLen.toNat ≠ k →
      exec .rcEcbDec s = .next (s.faulted 0x0C 2 0 0 k s.operand.extLen.toNat)) ∧
    (n % u = 0 → u * (k - 1) < l → l ≤ u * k → s.operand.extLen.toNat = k →
      s.operand.dstLen.toNat < l →
      exec .rcEcbDec s = .next (s.faulted 0x06 1 0 0 l s.operand.dstLen.toNat)) ∧
    (n % u = 0 → u * (k - 1) < l → l ≤ u * k → s.operand.extLen.toNat = k →
      l ≤ s.operand.dstLen.toNat →
      ∃ t, exec .rcEcbDec s = .next t ∧
        t = ({ s with
            mem := t.mem
            status := { s.status with
              blockGeN := t.status.blockGeN
              dropNz := t.status.dropNz } } : State).succeeded l 0 ∧
        (t.status.blockGeN = true ↔
          s.status.blockGeN = true ∨ ∃ i, i < k ∧ s.key.kn ≤ c i) ∧
        (t.status.dropNz = true ↔
          s.status.dropNz = true ∨ ∃ i, i < k ∧ ∃ x ∈ (mb i).take (b - keep i), x ≠ 0#8) ∧
        UnchangedOutside s t dst l ∧
        ∀ i, i < k → t.memRead (dst + i * u) (keep i) = (mb i).drop (b - keep i))

/-- 43_cipher.md R268 to R270: RC_CFB_ENC and RC_CFB_DEC, segment by segment: the keystream is the encryption
of the feedback value, which is the IV first and the ciphertext segment before after that; and their checks
in their order. -/
def Obligations.CfbResult : Prop :=
  ∀ s : State, StreamPreamble .rcCfbEnc s ∧ StreamPreamble .rcCfbDec s ∧
    ∀ (b l k src dst : Nat) (ks : Nat → Bytes),
    b = s.key.kb → l = s.operand.srcLen.toNat → k = (l + b - 1) / b →
    src = s.operand.srcAddr.toNat → dst = s.operand.dstAddr.toNat →
    ks = (fun fb => beBytes b (fb ^ s.key.ke % s.key.kn)) →
    s.KeyOk → s.status.keyValid = true → 0 < l →
    (RegionsLegal .rcCfbEnc s → l ≤ s.operand.dstLen.toNat →
      ∃ t, exec .rcCfbEnc s = .next t ∧ t = ({ s with mem := t.mem } : State).succeeded l 0 ∧
        UnchangedOutside s t dst l ∧
        ∀ j, j < k → ∀ n fb : Nat, n = min b (l - j * b) →
          fb = (if j = 0 then fromBE (s.memRead s.cipher.ivAddr.toNat b)
            else fromBE (t.memRead (dst + (j - 1) * b) b)) →
          t.memRead (dst + j * b) n =
            List.zipWith (fun p q => p ^^^ q) (s.memRead (src + j * b) n) (ks fb)) ∧
    (RegionsLegal .rcCfbDec s → l ≤ s.operand.dstLen.toNat →
      ∃ t, exec .rcCfbDec s = .next t ∧ t = ({ s with mem := t.mem } : State).succeeded l 0 ∧
        UnchangedOutside s t dst l ∧
        ∀ j, j < k → ∀ n fb : Nat, n = min b (l - j * b) →
          fb = (if j = 0 then fromBE (s.memRead s.cipher.ivAddr.toNat b)
            else fromBE (s.memRead (src + (j - 1) * b) b)) →
          t.memRead (dst + j * b) n =
            List.zipWith (fun p q => p ^^^ q) (s.memRead (src + j * b) n) (ks fb)) ∧
    (∀ i, i = .rcCfbEnc ∨ i = .rcCfbDec → RegionsLegal i s → s.operand.dstLen.toNat < l →
      exec i s = .next (s.faulted 0x06 1 0 0 l s.operand.dstLen.toNat))

/-- 43_cipher.md R271: RC_MODEXP.E and .D: their checks in their order, and their effect. -/
def Obligations.ModexpResult : Prop :=
  ∀ (s : State) (i : Instr) (b n x y : Nat),
    b = s.key.kb → n = s.operand.srcLen.toNat →
    x = fromBE (s.memRead s.operand.srcAddr.toNat n) →
    ((i = .rcModexpE ∧ y = s.key.ke) ∨ (i = .rcModexpD ∧ y = s.key.kd)) →
    (s.status.keyValid = false → exec i s = .next (s.faulted 0x03 0 0 0 1 0)) ∧
    (EarlyChecksPass i s → RegionsReported i s) ∧
    (s.status.keyValid = true → n = 0 ∨ b < n → exec i s = .next (s.faulted 0x02 3 0 0 b n)) ∧
    (s.status.keyValid = true → 0 < n → n ≤ b → RegionsLegal i s → s.operand.dstLen.toNat < b →
      exec i s = .next (s.faulted 0x06 1 0 0 b s.operand.dstLen.toNat)) ∧
    (s.KeyOk → s.status.keyValid = true → 0 < n → n ≤ b → RegionsLegal i s →
      b ≤ s.operand.dstLen.toNat →
      ∃ t, exec i s = .next t ∧
        t = ({ s with
            mem := t.mem
            status := { s.status with
              blockGeN := s.status.blockGeN || decide (s.key.kn ≤ x) } } : State).succeeded b 0 ∧
        StoredExactly s t s.operand.dstAddr.toNat (beBytes b (x ^ y % s.key.kn)))

/-- 43_cipher.md R273 (the spec's own inference): with any key and any IV, RC_CFB_DEC of the output of
RC_CFB_ENC, with the same IV, gives the plaintext back, for every length. -/
def Obligations.CfbRoundTrip : Prop :=
  ∀ (s t : State) (dst cap : Word) (l : Nat),
    s.KeyOk → s.status.err = false → exec .rcCfbEnc s = .next t → t.status.err = false →
    l = s.operand.srcLen.toNat →
    ∀ t' : State,
      t' = { t with operand := { t.operand with
        srcAddr := s.operand.dstAddr, srcLen := t.out.len, dstAddr := dst, dstLen := cap } } →
      RegionsLegal .rcCfbDec t' → l ≤ cap.toNat →
      ∃ u, exec .rcCfbDec t' = .next u ∧ u.out.len.toNat = l ∧ u.status.err = false ∧
        u.memRead dst.toNat l = s.memRead s.operand.srcAddr.toNat l

/-- 43_cipher.md R272 (the spec's own inference): with a consistent key that is not narrow, RC_ECB_DEC of
both streams of RC_ECB_ENC, with PLAIN_LEN the plaintext's length, gives the plaintext back, and neither
BLOCK_GE_N nor DROP_NZ is set. -/
def Obligations.EcbRoundTrip : Prop :=
  ∀ (s t : State) (dst cap : Word) (l : Nat),
    s.KeyOk → s.status.keyNarrow = false →
    (∀ m, m < s.key.kn → (m ^ s.key.ke % s.key.kn) ^ s.key.kd % s.key.kn = m) →
    s.status.err = false → s.status.blockGeN = false → s.status.dropNz = false →
    exec .rcEcbEnc s = .next t → t.status.err = false → l = s.operand.srcLen.toNat →
    ∀ t' : State,
      t' = { t with
        operand := { t.operand with
          srcAddr := s.operand.dstAddr, srcLen := t.out.len, extLen := t.out.extLen,
          dstAddr := dst, dstLen := cap }
        cipher := { t.cipher with plainLen := s.operand.srcLen } } →
      RegionsLegal .rcEcbDec t' → l ≤ cap.toNat →
      ∃ u, exec .rcEcbDec t' = .next u ∧ u.out.len.toNat = l ∧ u.status.err = false ∧
        u.status.blockGeN = false ∧ u.status.dropNz = false ∧
        u.memRead dst.toNat l = s.memRead s.operand.srcAddr.toNat l

/-! ### The register map -/

/-- 10_state.md R20 to R64: the register map, written out. A host read of each listed offset answers the
state that its register reads (in any phase), and one of any other aligned offset of the block answers 0;
while Idle, a host write to the offset of an RW register stores the value in that piece of state and
changes nothing else. -/
def Obligations.RegisterMap : Prop :=
  ∀ (s : State) (rest : List Event),
    (∀ p ∈ registerMap s, s.script = .bus (.read p.1 4) :: rest →
      step s = .next { s with script := rest, answers := .value p.2 :: s.answers }) ∧
    (∀ off : Nat, off % 4 = 0 → off < 0x1000 → (∀ p ∈ registerMap s, p.1 ≠ off) →
      s.script = .bus (.read off 4) :: rest →
      step s = .next { s with script := rest, answers := .value 0 :: s.answers }) ∧
    (∀ v : Nat, s.phase = .idle → ∀ p ∈ writableMap s (BitVec.ofNat 32 v),
      s.script = .bus (.write p.1 4 v) :: rest →
      step s = .next { p.2 with script := rest, answers := .ok :: s.answers })
end

