-- ==== Sys2Proof/Laws/Bytes.lean ====
section
/-! SUPPORT. The byte-order primitives of 00_scope.md R12: lengths, values, inverses. -/

namespace Sys2Proof.Machine

@[simp] theorem leBytes_length (n v : Nat) : (leBytes n v).length = n := by
  induction n generalizing v with
  | zero => rfl
  | succ n ih => simp [leBytes, ih]

@[simp] theorem beBytes_length (n v : Nat) : (beBytes n v).length = n := by simp [beBytes]

theorem fromLE_leBytes (n v : Nat) : fromLE (leBytes n v) = v % 256 ^ n := by
  induction n generalizing v with
  | zero => simp [leBytes, fromLE, Nat.mod_one]
  | succ n ih =>
    have h : v % 256 ^ (n + 1) = v % 256 + 256 * (v / 256 % 256 ^ n) := by
      rw [pow_succ', Nat.mod_mul]
    rw [h, leBytes, fromLE, ih, BitVec.toNat_ofNat]

theorem fromBE_beBytes (n v : Nat) : fromBE (beBytes n v) = v % 256 ^ n := by
  simp [fromBE, beBytes, fromLE_leBytes]

theorem fromLE_lt (s : Bytes) : fromLE s < 256 ^ s.length := by
  induction s with
  | nil => simp [fromLE]
  | cons b bs ih =>
    have hb := b.isLt
    simp only [fromLE, List.length_cons, pow_succ']
    omega

theorem fromBE_lt (s : Bytes) : fromBE s < 256 ^ s.length := by
  simpa [fromBE] using fromLE_lt s.reverse

theorem leBytes_fromLE (s : Bytes) : leBytes s.length (fromLE s) = s := by
  induction s with
  | nil => rfl
  | cons b bs ih =>
    have hb : b.toNat < 256 := b.isLt
    have hdiv : (b.toNat + 256 * fromLE bs) / 256 = fromLE bs := by omega
    have hmod : BitVec.ofNat 8 (b.toNat + 256 * fromLE bs) = b :=
      BitVec.eq_of_toNat_eq (by simp only [BitVec.toNat_ofNat]; omega)
    simp [leBytes, fromLE, hdiv, hmod, ih]

theorem beBytes_fromBE (s : Bytes) : beBytes s.length (fromBE s) = s := by
  have h := leBytes_fromLE s.reverse
  rw [List.length_reverse] at h
  simp [beBytes, fromBE, h]

@[simp] theorem fromBE_nil : fromBE [] = 0 := rfl

theorem leBytes_getD (n v i : Nat) (h : i < n) :
    (leBytes n v).getD i 0#8 = BitVec.ofNat 8 (v / 256 ^ i) := by
  induction n generalizing v i with
  | zero => omega
  | succ n ih =>
    cases i with
    | zero => simp [leBytes]
    | succ i =>
      have := ih (v / 256) i (by omega)
      simpa [leBytes, Nat.div_div_eq_div_mul, pow_succ'] using this

@[simp] theorem word_toNat (v : Nat) : (word v).toNat = v % 2 ^ 32 := by simp [word]

theorem word_toNat_of_lt (v : Nat) (h : v < 2 ^ 32) : (word v).toNat = v := by
  rw [word_toNat, Nat.mod_eq_of_lt h]

theorem sat32_of_lt (v : Nat) (h : v < 2 ^ 32) : sat32 v = word v := if_pos h

theorem sat32_toNat (v : Nat) : (sat32 v).toNat = min v (2 ^ 32 - 1) := by
  unfold sat32
  split
  · rw [word_toNat_of_lt _ ‹_›]; omega
  · simp; omega

end Sys2Proof.Machine
end

