-- ==== Sys2Proof/Laws/Checks.lean ====
section
/-! SUPPORT. What the shared checks and the two outcomes say, in the words of Safety.lean: each check
passes exactly under its rule's condition, and an outcome is the one written out there. -/

namespace Sys2Proof.Machine

/-! ### Outcomes -/

theorem sat32_eq_saturated (v : Nat) : sat32 v = saturated v := by
  unfold sat32 saturated word
  split
  · rw [Nat.min_eq_left (by omega)]
  · rw [Nat.min_eq_right (by omega)]

theorem complete_eq_succeeded (o e : Nat) (s : State) : complete o e s = s.succeeded o e := rfl

theorem clearKey_eq_withoutKey (s : State) : clearKey s = s.withoutKey := rfl

theorem FaultCode.num_range (c : FaultCode) : 1 ≤ c.num ∧ c.num ≤ 13 := by
  cases c <;> simp [FaultCode.num]

theorem codeWord_eq (c : FaultCode) (sub : Nat) : c.num ||| (sub <<< 8) = c.num + 256 * sub := by
  have h : c.num < 2 ^ 8 := by have := c.num_range; omega
  rw [Nat.lor_comm, ← Nat.shiftLeft_add_eq_or_of_lt h, Nat.shiftLeft_eq]
  omega

theorem takeFault_eq_faulted (f : CmdFault) (s : State) :
    takeFault f s = s.faulted f.code.num f.sub f.index f.offset f.expected f.actual := by
  simp only [takeFault, State.faulted, CmdFault.report, codeWord_eq, sat32_eq_saturated, word]

/-! ### Checks in sequence -/

/-- The first failing check is the one reported (40_common.md R147). -/
theorem check_or_eq_none {a b : Option CmdFault} : (a <|> b) = none ↔ a = none ∧ b = none := by
  cases a <;> simp

theorem check_or_eq_some {a b : Option CmdFault} {f : CmdFault} :
    (a <|> b) = some f ↔ a = some f ∨ (a = none ∧ b = some f) := by
  cases a <;> simp

/-! ### Regions -/

theorem Region.inRange_iff (r : Region) (n : Nat) :
    r.inRange n = true ↔ r.len = 0 ∨ r.addr + r.len ≤ n := by
  simp [Region.inRange]

theorem Region.overlaps_iff (r q : Region) :
    r.overlaps q = true ↔
      0 < r.len ∧ 0 < q.len ∧ r.addr < q.addr + q.len ∧ q.addr < r.addr + r.len := by
  simp [Region.overlaps, and_assoc]

theorem addrRangeFault_eq_none_iff (rs : List Region) (s : State) :
    addrRangeFault rs s = none ↔ ∀ r ∈ rs, r.len = 0 ∨ r.addr + r.len ≤ s.params.memBytes := by
  simp [addrRangeFault, Region.inRange_iff]

/-- The regions of a command are listed by rising id, so an id names at most one. -/
theorem regions_eq_of_id {i : Instr} {s : State} {r q : Region} (hr : r ∈ regions i s)
    (hq : q ∈ regions i s) (h : r.id = q.id) : r = q := by
  cases i <;>
    simp only [regions, List.mem_cons, List.not_mem_nil, or_false] at hr hq <;>
    rcases hr with rfl | rfl | rfl <;> rcases hq with rfl | rfl | rfl <;> first | rfl | cases h

/-- The written region `id` of a command is the one `pairFault` finds. -/
theorem find_region {i : Instr} {s : State} {r : Region} (hr : r ∈ regions i s)
    (p : Region → Bool) (hp : p r = true) (hid : ∀ q, p q = true → q.id = r.id) :
    (regions i s).find? p = some r := by
  cases h : (regions i s).find? p with
  | none => exact absurd hp (by simpa using List.find?_eq_none.1 h r hr)
  | some q =>
    have hq := List.find?_some h
    rw [regions_eq_of_id (List.mem_of_find?_eq_some h) hr (hid q hq)]

theorem pairFault_of_mem {i : Instr} {s : State} {w o : Region} (hw : w ∈ regions i s)
    (ho : o ∈ regions i s) (hwr : w.writes = true) :
    pairFault (regions i s) (w.id, o.id) =
      if w.overlaps o then
        some { code := .regionOverlap, sub := (w.id.num <<< 4) ||| o.id.num, expected := w.addr,
               actual := o.addr }
      else none := by
  have h1 := find_region hw (fun r => r.id == w.id && r.writes) (by simp [hwr]) (by simp +contextual)
  have h2 := find_region ho (fun r => r.id == o.id) (by simp) (by simp)
  simp only [pairFault, h1, h2]

theorem pairFault_eq_none_iff {i : Instr} {s : State} (p : RegionId × RegionId) :
    pairFault (regions i s) p = none ↔
      ∀ w ∈ regions i s, ∀ o ∈ regions i s, w.id = p.1 → o.id = p.2 → w.writes = true →
        ¬ (0 < w.len ∧ 0 < o.len ∧ w.addr < o.addr + o.len ∧ o.addr < w.addr + w.len) := by
  constructor
  · intro h w hw o ho hp1 hp2 hwr hov
    have := pairFault_of_mem hw ho hwr
    rw [hp1, hp2, h, if_pos ((Region.overlaps_iff w o).2 hov)] at this
    cases this
  · intro h
    simp only [pairFault]
    split
    · rename_i w o hw ho
      have hw1 := List.find?_some hw
      have ho1 := List.find?_some ho
      simp only [Bool.and_eq_true, beq_iff_eq] at hw1 ho1
      have := h w (List.mem_of_find?_eq_some hw) o (List.mem_of_find?_eq_some ho) hw1.1 ho1 hw1.2
      rw [← Region.overlaps_iff] at this
      rw [if_neg this]
    · rfl

/-- Every pair of a written region and another one is in the order of the overlap check. -/
theorem overlap_pair_listed {i : Instr} {s : State} {w o : Region} (hw : w ∈ regions i s)
    (ho : o ∈ regions i s) (hwr : w.writes = true) (hne : w.id ≠ o.id) :
    (w.id, o.id) ∈ overlapOrder ∨ (o.writes = true ∧ (o.id, w.id) ∈ overlapOrder) := by
  cases i <;>
    simp only [regions, List.mem_cons, List.not_mem_nil, or_false] at hw ho <;>
    rcases hw with rfl | rfl | rfl <;> rcases ho with rfl | rfl | rfl <;>
    first
      | exact absurd rfl hne
      | exact Bool.noConfusion hwr
      | simp [overlapOrder, srcRegion, dataRegion, dstRegion, extRegion, ivRegion]

/-- The two region checks pass exactly when the regions are legal (20_memory.md R86, R87). -/
theorem regionFault_eq_none_iff (i : Instr) (s : State) :
    regionFault i s = none ↔ RegionsLegal i s := by
  unfold regionFault RegionsLegal
  rw [check_or_eq_none, addrRangeFault_eq_none_iff]
  refine and_congr_right fun _ => ?_
  rw [regionOverlapFault, List.findSome?_eq_none_iff]
  constructor
  · intro h w hw o ho hwr hne hov
    rcases overlap_pair_listed hw ho hwr hne with hp | ⟨hor, hp⟩
    · exact (pairFault_eq_none_iff _).1 (h _ hp) w hw o ho rfl rfl hwr hov
    · exact (pairFault_eq_none_iff _).1 (h _ hp) o ho w hw rfl rfl hor
        ⟨hov.2.1, hov.1, hov.2.2.2, hov.2.2.1⟩
  · intro h p hp
    refine (pairFault_eq_none_iff p).2 fun w hw o ho h1 h2 hwr => h w hw o ho hwr ?_
    rw [h1, h2]
    revert hp p
    simp [overlapOrder]

/-- A write region of a command whose region checks pass is in range and clear of its read regions. -/
theorem RegionsLegal.disjoint {i : Instr} {s : State} (h : RegionsLegal i s) {w o : Region}
    (hw : w ∈ regions i s) (ho : o ∈ regions i s) (hwr : w.writes = true) (hne : w.id ≠ o.id) (x : Nat)
    (hx : w.addr ≤ x ∧ x < w.addr + w.len) : ¬ (o.addr ≤ x ∧ x < o.addr + o.len) := by
  have := h.2 w hw o ho hwr hne
  omega

/-! ### Register values and lengths -/

theorem dstOverflowFault_eq_none_iff (n : Nat) (s : State) :
    dstOverflowFault n s = none ↔ n ≤ s.operand.dstLen.toNat := by
  simp [dstOverflowFault]

theorem extOverflowFault_eq_none_iff (n : Nat) (s : State) :
    extOverflowFault n s = none ↔ n ≤ s.operand.extLen.toNat := by
  simp [extOverflowFault]

theorem keyNotLoadedFault_eq_none_iff (s : State) :
    keyNotLoadedFault s = none ↔ s.status.keyValid = true := by
  simp [keyNotLoadedFault]

theorem bppFault_eq_none_iff (s : State) :
    bppFault s = none ↔ 1 ≤ s.filter.bpp.toNat ∧ s.filter.bpp.toNat ≤ 4 := by
  simp only [bppFault]
  split <;> simp_all

theorem cursorFault_eq_none_iff (s : State) :
    cursorFault s = none ↔ s.framer.cursor.toNat ≤ s.operand.srcLen.toNat := by
  simp [cursorFault]

theorem pixelDataFault_eq_none_iff (s : State) :
    pixelDataFault s = none ↔ s.operand.srcLen.toNat = s.filteredLen := by
  simp [pixelDataFault]

theorem rawLengthFault_eq_none_iff (s : State) :
    rawLengthFault s = none ↔ s.operand.srcLen.toNat = s.rawLen := by
  simp [rawLengthFault]

theorem keyBitsFault_eq_none_iff (s : State) :
    keyBitsFault s = none ↔
      9 ≤ s.cipher.keyBits.toNat ∧ s.cipher.keyBits.toNat ≤ s.params.kmaxBits := by
  simp only [keyBitsFault]
  split <;> (simp; omega)

theorem keyInvalidFault_eq_none_iff (s : State) : keyInvalidFault s = none ↔ s.keyPart 0 ≠ 0 := by
  simp [keyInvalidFault]

theorem blockLenFault_eq_none_iff (s : State) :
    blockLenFault s = none ↔ 0 < s.operand.srcLen.toNat ∧ s.operand.srcLen.toNat ≤ s.key.kb := by
  simp only [blockLenFault]
  split <;> (simp; omega)

theorem ecbDecLengthFault_eq_none_iff (s : State) :
    ecbDecLengthFault s = none ↔
      s.operand.srcLen.toNat % s.key.ku = 0 ∧
      s.key.ku * (s.operand.srcLen.toNat / s.key.ku - 1) < s.cipher.plainLen.toNat ∧
      s.cipher.plainLen.toNat ≤ s.key.ku * (s.operand.srcLen.toNat / s.key.ku) ∧
      s.operand.extLen.toNat = s.operand.srcLen.toNat / s.key.ku := by
  simp only [ecbDecLengthFault]
  split_ifs <;> (simp_all; try omega)

end Sys2Proof.Machine
end

