-- ==== Sys2Proof/Laws/State.lean ====
section
/-! SUPPORT. One lemma a field and shared update of State, each true by definition, so that no later
proof unfolds a record update. -/

namespace Sys2Proof.Machine

/-! ### memWrite -/

@[simp] theorem memWrite_params (s : State) (a : Nat) (bs : Bytes) : (s.memWrite a bs).params = s.params := rfl
@[simp] theorem memWrite_phase (s : State) (a : Nat) (bs : Bytes) : (s.memWrite a bs).phase = s.phase := rfl
@[simp] theorem memWrite_lastCmd (s : State) (a : Nat) (bs : Bytes) : (s.memWrite a bs).lastCmd = s.lastCmd := rfl
@[simp] theorem memWrite_status (s : State) (a : Nat) (bs : Bytes) : (s.memWrite a bs).status = s.status := rfl
@[simp] theorem memWrite_err (s : State) (a : Nat) (bs : Bytes) : (s.memWrite a bs).err = s.err := rfl
@[simp] theorem memWrite_irqEn (s : State) (a : Nat) (bs : Bytes) : (s.memWrite a bs).irqEn = s.irqEn := rfl
@[simp] theorem memWrite_donePend (s : State) (a : Nat) (bs : Bytes) : (s.memWrite a bs).donePend = s.donePend := rfl
@[simp] theorem memWrite_operand (s : State) (a : Nat) (bs : Bytes) : (s.memWrite a bs).operand = s.operand := rfl
@[simp] theorem memWrite_out (s : State) (a : Nat) (bs : Bytes) : (s.memWrite a bs).out = s.out := rfl
@[simp] theorem memWrite_framer (s : State) (a : Nat) (bs : Bytes) : (s.memWrite a bs).framer = s.framer := rfl
@[simp] theorem memWrite_filter (s : State) (a : Nat) (bs : Bytes) : (s.memWrite a bs).filter = s.filter := rfl
@[simp] theorem memWrite_cipher (s : State) (a : Nat) (bs : Bytes) : (s.memWrite a bs).cipher = s.cipher := rfl
@[simp] theorem memWrite_key (s : State) (a : Nat) (bs : Bytes) : (s.memWrite a bs).key = s.key := rfl
@[simp] theorem memWrite_mem (s : State) (a : Nat) (bs : Bytes) :
    (s.memWrite a bs).mem = s.mem.write a bs := rfl
@[simp] theorem memWrite_memDraw (s : State) (a : Nat) (bs : Bytes) : (s.memWrite a bs).memDraw = s.memDraw := rfl
@[simp] theorem memWrite_draws (s : State) (a : Nat) (bs : Bytes) : (s.memWrite a bs).draws = s.draws := rfl
@[simp] theorem memWrite_script (s : State) (a : Nat) (bs : Bytes) : (s.memWrite a bs).script = s.script := rfl
@[simp] theorem memWrite_answers (s : State) (a : Nat) (bs : Bytes) : (s.memWrite a bs).answers = s.answers := rfl

/-! ### drawRegion -/

@[simp] theorem drawRegion_params (s : State) (a n : Nat) : (s.drawRegion a n).params = s.params := rfl
@[simp] theorem drawRegion_phase (s : State) (a n : Nat) : (s.drawRegion a n).phase = s.phase := rfl
@[simp] theorem drawRegion_lastCmd (s : State) (a n : Nat) : (s.drawRegion a n).lastCmd = s.lastCmd := rfl
@[simp] theorem drawRegion_status (s : State) (a n : Nat) : (s.drawRegion a n).status = s.status := rfl
@[simp] theorem drawRegion_err (s : State) (a n : Nat) : (s.drawRegion a n).err = s.err := rfl
@[simp] theorem drawRegion_irqEn (s : State) (a n : Nat) : (s.drawRegion a n).irqEn = s.irqEn := rfl
@[simp] theorem drawRegion_donePend (s : State) (a n : Nat) : (s.drawRegion a n).donePend = s.donePend := rfl
@[simp] theorem drawRegion_operand (s : State) (a n : Nat) : (s.drawRegion a n).operand = s.operand := rfl
@[simp] theorem drawRegion_out (s : State) (a n : Nat) : (s.drawRegion a n).out = s.out := rfl
@[simp] theorem drawRegion_framer (s : State) (a n : Nat) : (s.drawRegion a n).framer = s.framer := rfl
@[simp] theorem drawRegion_filter (s : State) (a n : Nat) : (s.drawRegion a n).filter = s.filter := rfl
@[simp] theorem drawRegion_cipher (s : State) (a n : Nat) : (s.drawRegion a n).cipher = s.cipher := rfl
@[simp] theorem drawRegion_key (s : State) (a n : Nat) : (s.drawRegion a n).key = s.key := rfl
@[simp] theorem drawRegion_memDraw (s : State) (a n : Nat) : (s.drawRegion a n).memDraw = s.memDraw := rfl
@[simp] theorem drawRegion_draws (s : State) (a n : Nat) :
    (s.drawRegion a n).draws = s.draws + 1 := rfl
@[simp] theorem drawRegion_script (s : State) (a n : Nat) : (s.drawRegion a n).script = s.script := rfl
@[simp] theorem drawRegion_answers (s : State) (a n : Nat) : (s.drawRegion a n).answers = s.answers := rfl

/-! ### setCrcMatch -/

@[simp] theorem setCrcMatch_params (s : State) (b : Bool) : (s.setCrcMatch b).params = s.params := rfl
@[simp] theorem setCrcMatch_phase (s : State) (b : Bool) : (s.setCrcMatch b).phase = s.phase := rfl
@[simp] theorem setCrcMatch_lastCmd (s : State) (b : Bool) : (s.setCrcMatch b).lastCmd = s.lastCmd := rfl
@[simp] theorem setCrcMatch_status_done (s : State) (b : Bool) :
    (s.setCrcMatch b).status.done = s.status.done := rfl
@[simp] theorem setCrcMatch_status_err (s : State) (b : Bool) :
    (s.setCrcMatch b).status.err = s.status.err := rfl
@[simp] theorem setCrcMatch_status_keyValid (s : State) (b : Bool) :
    (s.setCrcMatch b).status.keyValid = s.status.keyValid := rfl
@[simp] theorem setCrcMatch_status_crcMatch (s : State) (b : Bool) :
    (s.setCrcMatch b).status.crcMatch = b := rfl
@[simp] theorem setCrcMatch_status_keyNarrow (s : State) (b : Bool) :
    (s.setCrcMatch b).status.keyNarrow = s.status.keyNarrow := rfl
@[simp] theorem setCrcMatch_status_blockGeN (s : State) (b : Bool) :
    (s.setCrcMatch b).status.blockGeN = s.status.blockGeN := rfl
@[simp] theorem setCrcMatch_status_dropNz (s : State) (b : Bool) :
    (s.setCrcMatch b).status.dropNz = s.status.dropNz := rfl
@[simp] theorem setCrcMatch_status_busyWrite (s : State) (b : Bool) :
    (s.setCrcMatch b).status.busyWrite = s.status.busyWrite := rfl
@[simp] theorem setCrcMatch_status_bufBlocked (s : State) (b : Bool) :
    (s.setCrcMatch b).status.bufBlocked = s.status.bufBlocked := rfl
@[simp] theorem setCrcMatch_err (s : State) (b : Bool) : (s.setCrcMatch b).err = s.err := rfl
@[simp] theorem setCrcMatch_irqEn (s : State) (b : Bool) : (s.setCrcMatch b).irqEn = s.irqEn := rfl
@[simp] theorem setCrcMatch_donePend (s : State) (b : Bool) : (s.setCrcMatch b).donePend = s.donePend := rfl
@[simp] theorem setCrcMatch_operand (s : State) (b : Bool) : (s.setCrcMatch b).operand = s.operand := rfl
@[simp] theorem setCrcMatch_out (s : State) (b : Bool) : (s.setCrcMatch b).out = s.out := rfl
@[simp] theorem setCrcMatch_framer (s : State) (b : Bool) : (s.setCrcMatch b).framer = s.framer := rfl
@[simp] theorem setCrcMatch_filter (s : State) (b : Bool) : (s.setCrcMatch b).filter = s.filter := rfl
@[simp] theorem setCrcMatch_cipher (s : State) (b : Bool) : (s.setCrcMatch b).cipher = s.cipher := rfl
@[simp] theorem setCrcMatch_key (s : State) (b : Bool) : (s.setCrcMatch b).key = s.key := rfl
@[simp] theorem setCrcMatch_mem (s : State) (b : Bool) : (s.setCrcMatch b).mem = s.mem := rfl
@[simp] theorem setCrcMatch_memDraw (s : State) (b : Bool) : (s.setCrcMatch b).memDraw = s.memDraw := rfl
@[simp] theorem setCrcMatch_draws (s : State) (b : Bool) : (s.setCrcMatch b).draws = s.draws := rfl
@[simp] theorem setCrcMatch_script (s : State) (b : Bool) : (s.setCrcMatch b).script = s.script := rfl
@[simp] theorem setCrcMatch_answers (s : State) (b : Bool) : (s.setCrcMatch b).answers = s.answers := rfl
@[simp] theorem setCrcMatch_readByte (s : State) (b : Bool) (x : Nat) :
    (s.setCrcMatch b).readByte x = s.readByte x := rfl
@[simp] theorem setCrcMatch_memRead (s : State) (b : Bool) (x n : Nat) :
    (s.setCrcMatch b).memRead x n = s.memRead x n := rfl

/-! ### noteBlocks -/

@[simp] theorem noteBlocks_params (s : State) (vs : List Nat) : (s.noteBlocks vs).params = s.params := rfl
@[simp] theorem noteBlocks_phase (s : State) (vs : List Nat) : (s.noteBlocks vs).phase = s.phase := rfl
@[simp] theorem noteBlocks_lastCmd (s : State) (vs : List Nat) : (s.noteBlocks vs).lastCmd = s.lastCmd := rfl
@[simp] theorem noteBlocks_status_done (s : State) (vs : List Nat) :
    (s.noteBlocks vs).status.done = s.status.done := rfl
@[simp] theorem noteBlocks_status_err (s : State) (vs : List Nat) :
    (s.noteBlocks vs).status.err = s.status.err := rfl
@[simp] theorem noteBlocks_status_keyValid (s : State) (vs : List Nat) :
    (s.noteBlocks vs).status.keyValid = s.status.keyValid := rfl
@[simp] theorem noteBlocks_status_crcMatch (s : State) (vs : List Nat) :
    (s.noteBlocks vs).status.crcMatch = s.status.crcMatch := rfl
@[simp] theorem noteBlocks_status_keyNarrow (s : State) (vs : List Nat) :
    (s.noteBlocks vs).status.keyNarrow = s.status.keyNarrow := rfl
@[simp] theorem noteBlocks_status_blockGeN (s : State) (vs : List Nat) :
    (s.noteBlocks vs).status.blockGeN = (s.status.blockGeN || vs.any fun x => decide (s.key.kn ≤ x)) := rfl
@[simp] theorem noteBlocks_status_dropNz (s : State) (vs : List Nat) :
    (s.noteBlocks vs).status.dropNz = s.status.dropNz := rfl
@[simp] theorem noteBlocks_status_busyWrite (s : State) (vs : List Nat) :
    (s.noteBlocks vs).status.busyWrite = s.status.busyWrite := rfl
@[simp] theorem noteBlocks_status_bufBlocked (s : State) (vs : List Nat) :
    (s.noteBlocks vs).status.bufBlocked = s.status.bufBlocked := rfl
@[simp] theorem noteBlocks_err (s : State) (vs : List Nat) : (s.noteBlocks vs).err = s.err := rfl
@[simp] theorem noteBlocks_irqEn (s : State) (vs : List Nat) : (s.noteBlocks vs).irqEn = s.irqEn := rfl
@[simp] theorem noteBlocks_donePend (s : State) (vs : List Nat) : (s.noteBlocks vs).donePend = s.donePend := rfl
@[simp] theorem noteBlocks_operand (s : State) (vs : List Nat) : (s.noteBlocks vs).operand = s.operand := rfl
@[simp] theorem noteBlocks_out (s : State) (vs : List Nat) : (s.noteBlocks vs).out = s.out := rfl
@[simp] theorem noteBlocks_framer (s : State) (vs : List Nat) : (s.noteBlocks vs).framer = s.framer := rfl
@[simp] theorem noteBlocks_filter (s : State) (vs : List Nat) : (s.noteBlocks vs).filter = s.filter := rfl
@[simp] theorem noteBlocks_cipher (s : State) (vs : List Nat) : (s.noteBlocks vs).cipher = s.cipher := rfl
@[simp] theorem noteBlocks_key (s : State) (vs : List Nat) : (s.noteBlocks vs).key = s.key := rfl
@[simp] theorem noteBlocks_mem (s : State) (vs : List Nat) : (s.noteBlocks vs).mem = s.mem := rfl
@[simp] theorem noteBlocks_memDraw (s : State) (vs : List Nat) : (s.noteBlocks vs).memDraw = s.memDraw := rfl
@[simp] theorem noteBlocks_draws (s : State) (vs : List Nat) : (s.noteBlocks vs).draws = s.draws := rfl
@[simp] theorem noteBlocks_script (s : State) (vs : List Nat) : (s.noteBlocks vs).script = s.script := rfl
@[simp] theorem noteBlocks_answers (s : State) (vs : List Nat) : (s.noteBlocks vs).answers = s.answers := rfl
@[simp] theorem noteBlocks_readByte (s : State) (vs : List Nat) (x : Nat) :
    (s.noteBlocks vs).readByte x = s.readByte x := rfl
@[simp] theorem noteBlocks_memRead (s : State) (vs : List Nat) (x n : Nat) :
    (s.noteBlocks vs).memRead x n = s.memRead x n := rfl

/-! ### noteDropped -/

@[simp] theorem noteDropped_params (s : State) (bs : Bytes) : (s.noteDropped bs).params = s.params := rfl
@[simp] theorem noteDropped_phase (s : State) (bs : Bytes) : (s.noteDropped bs).phase = s.phase := rfl
@[simp] theorem noteDropped_lastCmd (s : State) (bs : Bytes) : (s.noteDropped bs).lastCmd = s.lastCmd := rfl
@[simp] theorem noteDropped_status_done (s : State) (bs : Bytes) :
    (s.noteDropped bs).status.done = s.status.done := rfl
@[simp] theorem noteDropped_status_err (s : State) (bs : Bytes) :
    (s.noteDropped bs).status.err = s.status.err := rfl
@[simp] theorem noteDropped_status_keyValid (s : State) (bs : Bytes) :
    (s.noteDropped bs).status.keyValid = s.status.keyValid := rfl
@[simp] theorem noteDropped_status_crcMatch (s : State) (bs : Bytes) :
    (s.noteDropped bs).status.crcMatch = s.status.crcMatch := rfl
@[simp] theorem noteDropped_status_keyNarrow (s : State) (bs : Bytes) :
    (s.noteDropped bs).status.keyNarrow = s.status.keyNarrow := rfl
@[simp] theorem noteDropped_status_blockGeN (s : State) (bs : Bytes) :
    (s.noteDropped bs).status.blockGeN = s.status.blockGeN := rfl
@[simp] theorem noteDropped_status_dropNz (s : State) (bs : Bytes) :
    (s.noteDropped bs).status.dropNz = (s.status.dropNz || bs.any fun b => b != 0#8) := rfl
@[simp] theorem noteDropped_status_busyWrite (s : State) (bs : Bytes) :
    (s.noteDropped bs).status.busyWrite = s.status.busyWrite := rfl
@[simp] theorem noteDropped_status_bufBlocked (s : State) (bs : Bytes) :
    (s.noteDropped bs).status.bufBlocked = s.status.bufBlocked := rfl
@[simp] theorem noteDropped_err (s : State) (bs : Bytes) : (s.noteDropped bs).err = s.err := rfl
@[simp] theorem noteDropped_irqEn (s : State) (bs : Bytes) : (s.noteDropped bs).irqEn = s.irqEn := rfl
@[simp] theorem noteDropped_donePend (s : State) (bs : Bytes) : (s.noteDropped bs).donePend = s.donePend := rfl
@[simp] theorem noteDropped_operand (s : State) (bs : Bytes) : (s.noteDropped bs).operand = s.operand := rfl
@[simp] theorem noteDropped_out (s : State) (bs : Bytes) : (s.noteDropped bs).out = s.out := rfl
@[simp] theorem noteDropped_framer (s : State) (bs : Bytes) : (s.noteDropped bs).framer = s.framer := rfl
@[simp] theorem noteDropped_filter (s : State) (bs : Bytes) : (s.noteDropped bs).filter = s.filter := rfl
@[simp] theorem noteDropped_cipher (s : State) (bs : Bytes) : (s.noteDropped bs).cipher = s.cipher := rfl
@[simp] theorem noteDropped_key (s : State) (bs : Bytes) : (s.noteDropped bs).key = s.key := rfl
@[simp] theorem noteDropped_mem (s : State) (bs : Bytes) : (s.noteDropped bs).mem = s.mem := rfl
@[simp] theorem noteDropped_memDraw (s : State) (bs : Bytes) : (s.noteDropped bs).memDraw = s.memDraw := rfl
@[simp] theorem noteDropped_draws (s : State) (bs : Bytes) : (s.noteDropped bs).draws = s.draws := rfl
@[simp] theorem noteDropped_script (s : State) (bs : Bytes) : (s.noteDropped bs).script = s.script := rfl
@[simp] theorem noteDropped_answers (s : State) (bs : Bytes) : (s.noteDropped bs).answers = s.answers := rfl
@[simp] theorem noteDropped_readByte (s : State) (bs : Bytes) (x : Nat) :
    (s.noteDropped bs).readByte x = s.readByte x := rfl
@[simp] theorem noteDropped_memRead (s : State) (bs : Bytes) (x n : Nat) :
    (s.noteDropped bs).memRead x n = s.memRead x n := rfl

/-! ### accept -/

@[simp] theorem accept_params (w : Word) (s : State) : (accept w s).params = s.params := rfl
@[simp] theorem accept_phase (w : Word) (s : State) :
    (accept w s).phase = .busy w := rfl
@[simp] theorem accept_lastCmd (w : Word) (s : State) :
    (accept w s).lastCmd = w := rfl
@[simp] theorem accept_status_done (w : Word) (s : State) :
    (accept w s).status.done = false := rfl
@[simp] theorem accept_status_err (w : Word) (s : State) :
    (accept w s).status.err = false := rfl
@[simp] theorem accept_status_keyValid (w : Word) (s : State) :
    (accept w s).status.keyValid = s.status.keyValid := rfl
@[simp] theorem accept_status_crcMatch (w : Word) (s : State) :
    (accept w s).status.crcMatch = s.status.crcMatch := rfl
@[simp] theorem accept_status_keyNarrow (w : Word) (s : State) :
    (accept w s).status.keyNarrow = s.status.keyNarrow := rfl
@[simp] theorem accept_status_blockGeN (w : Word) (s : State) :
    (accept w s).status.blockGeN = false := rfl
@[simp] theorem accept_status_dropNz (w : Word) (s : State) :
    (accept w s).status.dropNz = false := rfl
@[simp] theorem accept_status_busyWrite (w : Word) (s : State) :
    (accept w s).status.busyWrite = s.status.busyWrite := rfl
@[simp] theorem accept_status_bufBlocked (w : Word) (s : State) :
    (accept w s).status.bufBlocked = s.status.bufBlocked := rfl
@[simp] theorem accept_err (w : Word) (s : State) : (accept w s).err = s.err := rfl
@[simp] theorem accept_irqEn (w : Word) (s : State) : (accept w s).irqEn = s.irqEn := rfl
@[simp] theorem accept_donePend (w : Word) (s : State) : (accept w s).donePend = s.donePend := rfl
@[simp] theorem accept_operand (w : Word) (s : State) : (accept w s).operand = s.operand := rfl
@[simp] theorem accept_out (w : Word) (s : State) : (accept w s).out = s.out := rfl
@[simp] theorem accept_framer (w : Word) (s : State) : (accept w s).framer = s.framer := rfl
@[simp] theorem accept_filter (w : Word) (s : State) : (accept w s).filter = s.filter := rfl
@[simp] theorem accept_cipher (w : Word) (s : State) : (accept w s).cipher = s.cipher := rfl
@[simp] theorem accept_key (w : Word) (s : State) : (accept w s).key = s.key := rfl
@[simp] theorem accept_mem (w : Word) (s : State) : (accept w s).mem = s.mem := rfl
@[simp] theorem accept_memDraw (w : Word) (s : State) : (accept w s).memDraw = s.memDraw := rfl
@[simp] theorem accept_draws (w : Word) (s : State) : (accept w s).draws = s.draws := rfl
@[simp] theorem accept_script (w : Word) (s : State) : (accept w s).script = s.script := rfl
@[simp] theorem accept_answers (w : Word) (s : State) : (accept w s).answers = s.answers := rfl
@[simp] theorem accept_readByte (w : Word) (s : State) (x : Nat) :
    (accept w s).readByte x = s.readByte x := rfl
@[simp] theorem accept_memRead (w : Word) (s : State) (x n : Nat) :
    (accept w s).memRead x n = s.memRead x n := rfl

/-! ### complete -/

@[simp] theorem complete_params (l e : Nat) (s : State) : (complete l e s).params = s.params := rfl
@[simp] theorem complete_phase (l e : Nat) (s : State) :
    (complete l e s).phase = .idle := rfl
@[simp] theorem complete_lastCmd (l e : Nat) (s : State) : (complete l e s).lastCmd = s.lastCmd := rfl
@[simp] theorem complete_status_done (l e : Nat) (s : State) :
    (complete l e s).status.done = true := rfl
@[simp] theorem complete_status_err (l e : Nat) (s : State) :
    (complete l e s).status.err = s.status.err := rfl
@[simp] theorem complete_status_keyValid (l e : Nat) (s : State) :
    (complete l e s).status.keyValid = s.status.keyValid := rfl
@[simp] theorem complete_status_crcMatch (l e : Nat) (s : State) :
    (complete l e s).status.crcMatch = s.status.crcMatch := rfl
@[simp] theorem complete_status_keyNarrow (l e : Nat) (s : State) :
    (complete l e s).status.keyNarrow = s.status.keyNarrow := rfl
@[simp] theorem complete_status_blockGeN (l e : Nat) (s : State) :
    (complete l e s).status.blockGeN = s.status.blockGeN := rfl
@[simp] theorem complete_status_dropNz (l e : Nat) (s : State) :
    (complete l e s).status.dropNz = s.status.dropNz := rfl
@[simp] theorem complete_status_busyWrite (l e : Nat) (s : State) :
    (complete l e s).status.busyWrite = s.status.busyWrite := rfl
@[simp] theorem complete_status_bufBlocked (l e : Nat) (s : State) :
    (complete l e s).status.bufBlocked = s.status.bufBlocked := rfl
@[simp] theorem complete_err (l e : Nat) (s : State) :
    (complete l e s).err = ErrorReport.zero := rfl
@[simp] theorem complete_irqEn (l e : Nat) (s : State) : (complete l e s).irqEn = s.irqEn := rfl
@[simp] theorem complete_donePend (l e : Nat) (s : State) :
    (complete l e s).donePend = true := rfl
@[simp] theorem complete_operand (l e : Nat) (s : State) : (complete l e s).operand = s.operand := rfl
@[simp] theorem complete_out (l e : Nat) (s : State) :
    (complete l e s).out = { len := word l, extLen := word e } := rfl
@[simp] theorem complete_framer (l e : Nat) (s : State) : (complete l e s).framer = s.framer := rfl
@[simp] theorem complete_filter (l e : Nat) (s : State) : (complete l e s).filter = s.filter := rfl
@[simp] theorem complete_cipher (l e : Nat) (s : State) : (complete l e s).cipher = s.cipher := rfl
@[simp] theorem complete_key (l e : Nat) (s : State) : (complete l e s).key = s.key := rfl
@[simp] theorem complete_mem (l e : Nat) (s : State) : (complete l e s).mem = s.mem := rfl
@[simp] theorem complete_memDraw (l e : Nat) (s : State) : (complete l e s).memDraw = s.memDraw := rfl
@[simp] theorem complete_draws (l e : Nat) (s : State) : (complete l e s).draws = s.draws := rfl
@[simp] theorem complete_script (l e : Nat) (s : State) : (complete l e s).script = s.script := rfl
@[simp] theorem complete_answers (l e : Nat) (s : State) : (complete l e s).answers = s.answers := rfl
@[simp] theorem complete_readByte (l e : Nat) (s : State) (x : Nat) :
    (complete l e s).readByte x = s.readByte x := rfl
@[simp] theorem complete_memRead (l e : Nat) (s : State) (x n : Nat) :
    (complete l e s).memRead x n = s.memRead x n := rfl

/-! ### takeFault -/

@[simp] theorem takeFault_params (f : CmdFault) (s : State) : (takeFault f s).params = s.params := rfl
@[simp] theorem takeFault_phase (f : CmdFault) (s : State) :
    (takeFault f s).phase = .idle := rfl
@[simp] theorem takeFault_lastCmd (f : CmdFault) (s : State) : (takeFault f s).lastCmd = s.lastCmd := rfl
@[simp] theorem takeFault_status_done (f : CmdFault) (s : State) :
    (takeFault f s).status.done = true := rfl
@[simp] theorem takeFault_status_err (f : CmdFault) (s : State) :
    (takeFault f s).status.err = true := rfl
@[simp] theorem takeFault_status_keyValid (f : CmdFault) (s : State) :
    (takeFault f s).status.keyValid = s.status.keyValid := rfl
@[simp] theorem takeFault_status_crcMatch (f : CmdFault) (s : State) :
    (takeFault f s).status.crcMatch = s.status.crcMatch := rfl
@[simp] theorem takeFault_status_keyNarrow (f : CmdFault) (s : State) :
    (takeFault f s).status.keyNarrow = s.status.keyNarrow := rfl
@[simp] theorem takeFault_status_blockGeN (f : CmdFault) (s : State) :
    (takeFault f s).status.blockGeN = s.status.blockGeN := rfl
@[simp] theorem takeFault_status_dropNz (f : CmdFault) (s : State) :
    (takeFault f s).status.dropNz = s.status.dropNz := rfl
@[simp] theorem takeFault_status_busyWrite (f : CmdFault) (s : State) :
    (takeFault f s).status.busyWrite = s.status.busyWrite := rfl
@[simp] theorem takeFault_status_bufBlocked (f : CmdFault) (s : State) :
    (takeFault f s).status.bufBlocked = s.status.bufBlocked := rfl
@[simp] theorem takeFault_err (f : CmdFault) (s : State) :
    (takeFault f s).err = f.report := rfl
@[simp] theorem takeFault_irqEn (f : CmdFault) (s : State) : (takeFault f s).irqEn = s.irqEn := rfl
@[simp] theorem takeFault_donePend (f : CmdFault) (s : State) :
    (takeFault f s).donePend = true := rfl
@[simp] theorem takeFault_operand (f : CmdFault) (s : State) : (takeFault f s).operand = s.operand := rfl
@[simp] theorem takeFault_out (f : CmdFault) (s : State) :
    (takeFault f s).out = { len := 0#32, extLen := 0#32 } := rfl
@[simp] theorem takeFault_framer (f : CmdFault) (s : State) : (takeFault f s).framer = s.framer := rfl
@[simp] theorem takeFault_filter (f : CmdFault) (s : State) : (takeFault f s).filter = s.filter := rfl
@[simp] theorem takeFault_cipher (f : CmdFault) (s : State) : (takeFault f s).cipher = s.cipher := rfl
@[simp] theorem takeFault_key (f : CmdFault) (s : State) : (takeFault f s).key = s.key := rfl
@[simp] theorem takeFault_mem (f : CmdFault) (s : State) : (takeFault f s).mem = s.mem := rfl
@[simp] theorem takeFault_memDraw (f : CmdFault) (s : State) : (takeFault f s).memDraw = s.memDraw := rfl
@[simp] theorem takeFault_draws (f : CmdFault) (s : State) : (takeFault f s).draws = s.draws := rfl
@[simp] theorem takeFault_script (f : CmdFault) (s : State) : (takeFault f s).script = s.script := rfl
@[simp] theorem takeFault_answers (f : CmdFault) (s : State) : (takeFault f s).answers = s.answers := rfl
@[simp] theorem takeFault_readByte (f : CmdFault) (s : State) (x : Nat) :
    (takeFault f s).readByte x = s.readByte x := rfl
@[simp] theorem takeFault_memRead (f : CmdFault) (s : State) (x n : Nat) :
    (takeFault f s).memRead x n = s.memRead x n := rfl

/-! ### clearKey -/

@[simp] theorem clearKey_params (s : State) : (clearKey s).params = s.params := rfl
@[simp] theorem clearKey_phase (s : State) : (clearKey s).phase = s.phase := rfl
@[simp] theorem clearKey_lastCmd (s : State) : (clearKey s).lastCmd = s.lastCmd := rfl
@[simp] theorem clearKey_status_done (s : State) :
    (clearKey s).status.done = s.status.done := rfl
@[simp] theorem clearKey_status_err (s : State) :
    (clearKey s).status.err = s.status.err := rfl
@[simp] theorem clearKey_status_keyValid (s : State) :
    (clearKey s).status.keyValid = false := rfl
@[simp] theorem clearKey_status_crcMatch (s : State) :
    (clearKey s).status.crcMatch = s.status.crcMatch := rfl
@[simp] theorem clearKey_status_keyNarrow (s : State) :
    (clearKey s).status.keyNarrow = false := rfl
@[simp] theorem clearKey_status_blockGeN (s : State) :
    (clearKey s).status.blockGeN = s.status.blockGeN := rfl
@[simp] theorem clearKey_status_dropNz (s : State) :
    (clearKey s).status.dropNz = s.status.dropNz := rfl
@[simp] theorem clearKey_status_busyWrite (s : State) :
    (clearKey s).status.busyWrite = s.status.busyWrite := rfl
@[simp] theorem clearKey_status_bufBlocked (s : State) :
    (clearKey s).status.bufBlocked = s.status.bufBlocked := rfl
@[simp] theorem clearKey_err (s : State) : (clearKey s).err = s.err := rfl
@[simp] theorem clearKey_irqEn (s : State) : (clearKey s).irqEn = s.irqEn := rfl
@[simp] theorem clearKey_donePend (s : State) : (clearKey s).donePend = s.donePend := rfl
@[simp] theorem clearKey_operand (s : State) : (clearKey s).operand = s.operand := rfl
@[simp] theorem clearKey_out (s : State) : (clearKey s).out = s.out := rfl
@[simp] theorem clearKey_framer (s : State) : (clearKey s).framer = s.framer := rfl
@[simp] theorem clearKey_filter (s : State) : (clearKey s).filter = s.filter := rfl
@[simp] theorem clearKey_cipher (s : State) : (clearKey s).cipher = s.cipher := rfl
@[simp] theorem clearKey_key (s : State) :
    (clearKey s).key = KeyRegs.zero := rfl
@[simp] theorem clearKey_mem (s : State) : (clearKey s).mem = s.mem := rfl
@[simp] theorem clearKey_memDraw (s : State) : (clearKey s).memDraw = s.memDraw := rfl
@[simp] theorem clearKey_draws (s : State) : (clearKey s).draws = s.draws := rfl
@[simp] theorem clearKey_script (s : State) : (clearKey s).script = s.script := rfl
@[simp] theorem clearKey_answers (s : State) : (clearKey s).answers = s.answers := rfl
@[simp] theorem clearKey_readByte (s : State) (x : Nat) :
    (clearKey s).readByte x = s.readByte x := rfl
@[simp] theorem clearKey_memRead (s : State) (x n : Nat) :
    (clearKey s).memRead x n = s.memRead x n := rfl

/-! ### setBusyWrite -/

@[simp] theorem setBusyWrite_params (s : State) : (setBusyWrite s).params = s.params := rfl
@[simp] theorem setBusyWrite_phase (s : State) : (setBusyWrite s).phase = s.phase := rfl
@[simp] theorem setBusyWrite_lastCmd (s : State) : (setBusyWrite s).lastCmd = s.lastCmd := rfl
@[simp] theorem setBusyWrite_status_done (s : State) :
    (setBusyWrite s).status.done = s.status.done := rfl
@[simp] theorem setBusyWrite_status_err (s : State) :
    (setBusyWrite s).status.err = s.status.err := rfl
@[simp] theorem setBusyWrite_status_keyValid (s : State) :
    (setBusyWrite s).status.keyValid = s.status.keyValid := rfl
@[simp] theorem setBusyWrite_status_crcMatch (s : State) :
    (setBusyWrite s).status.crcMatch = s.status.crcMatch := rfl
@[simp] theorem setBusyWrite_status_keyNarrow (s : State) :
    (setBusyWrite s).status.keyNarrow = s.status.keyNarrow := rfl
@[simp] theorem setBusyWrite_status_blockGeN (s : State) :
    (setBusyWrite s).status.blockGeN = s.status.blockGeN := rfl
@[simp] theorem setBusyWrite_status_dropNz (s : State) :
    (setBusyWrite s).status.dropNz = s.status.dropNz := rfl
@[simp] theorem setBusyWrite_status_busyWrite (s : State) :
    (setBusyWrite s).status.busyWrite = true := rfl
@[simp] theorem setBusyWrite_status_bufBlocked (s : State) :
    (setBusyWrite s).status.bufBlocked = s.status.bufBlocked := rfl
@[simp] theorem setBusyWrite_err (s : State) : (setBusyWrite s).err = s.err := rfl
@[simp] theorem setBusyWrite_irqEn (s : State) : (setBusyWrite s).irqEn = s.irqEn := rfl
@[simp] theorem setBusyWrite_donePend (s : State) : (setBusyWrite s).donePend = s.donePend := rfl
@[simp] theorem setBusyWrite_operand (s : State) : (setBusyWrite s).operand = s.operand := rfl
@[simp] theorem setBusyWrite_out (s : State) : (setBusyWrite s).out = s.out := rfl
@[simp] theorem setBusyWrite_framer (s : State) : (setBusyWrite s).framer = s.framer := rfl
@[simp] theorem setBusyWrite_filter (s : State) : (setBusyWrite s).filter = s.filter := rfl
@[simp] theorem setBusyWrite_cipher (s : State) : (setBusyWrite s).cipher = s.cipher := rfl
@[simp] theorem setBusyWrite_key (s : State) : (setBusyWrite s).key = s.key := rfl
@[simp] theorem setBusyWrite_mem (s : State) : (setBusyWrite s).mem = s.mem := rfl
@[simp] theorem setBusyWrite_memDraw (s : State) : (setBusyWrite s).memDraw = s.memDraw := rfl
@[simp] theorem setBusyWrite_draws (s : State) : (setBusyWrite s).draws = s.draws := rfl
@[simp] theorem setBusyWrite_script (s : State) : (setBusyWrite s).script = s.script := rfl
@[simp] theorem setBusyWrite_answers (s : State) : (setBusyWrite s).answers = s.answers := rfl
@[simp] theorem setBusyWrite_readByte (s : State) (x : Nat) :
    (setBusyWrite s).readByte x = s.readByte x := rfl
@[simp] theorem setBusyWrite_memRead (s : State) (x n : Nat) :
    (setBusyWrite s).memRead x n = s.memRead x n := rfl

/-! ### setBufBlocked -/

@[simp] theorem setBufBlocked_params (s : State) : (setBufBlocked s).params = s.params := rfl
@[simp] theorem setBufBlocked_phase (s : State) : (setBufBlocked s).phase = s.phase := rfl
@[simp] theorem setBufBlocked_lastCmd (s : State) : (setBufBlocked s).lastCmd = s.lastCmd := rfl
@[simp] theorem setBufBlocked_status_done (s : State) :
    (setBufBlocked s).status.done = s.status.done := rfl
@[simp] theorem setBufBlocked_status_err (s : State) :
    (setBufBlocked s).status.err = s.status.err := rfl
@[simp] theorem setBufBlocked_status_keyValid (s : State) :
    (setBufBlocked s).status.keyValid = s.status.keyValid := rfl
@[simp] theorem setBufBlocked_status_crcMatch (s : State) :
    (setBufBlocked s).status.crcMatch = s.status.crcMatch := rfl
@[simp] theorem setBufBlocked_status_keyNarrow (s : State) :
    (setBufBlocked s).status.keyNarrow = s.status.keyNarrow := rfl
@[simp] theorem setBufBlocked_status_blockGeN (s : State) :
    (setBufBlocked s).status.blockGeN = s.status.blockGeN := rfl
@[simp] theorem setBufBlocked_status_dropNz (s : State) :
    (setBufBlocked s).status.dropNz = s.status.dropNz := rfl
@[simp] theorem setBufBlocked_status_busyWrite (s : State) :
    (setBufBlocked s).status.busyWrite = s.status.busyWrite := rfl
@[simp] theorem setBufBlocked_status_bufBlocked (s : State) :
    (setBufBlocked s).status.bufBlocked = true := rfl
@[simp] theorem setBufBlocked_err (s : State) : (setBufBlocked s).err = s.err := rfl
@[simp] theorem setBufBlocked_irqEn (s : State) : (setBufBlocked s).irqEn = s.irqEn := rfl
@[simp] theorem setBufBlocked_donePend (s : State) : (setBufBlocked s).donePend = s.donePend := rfl
@[simp] theorem setBufBlocked_operand (s : State) : (setBufBlocked s).operand = s.operand := rfl
@[simp] theorem setBufBlocked_out (s : State) : (setBufBlocked s).out = s.out := rfl
@[simp] theorem setBufBlocked_framer (s : State) : (setBufBlocked s).framer = s.framer := rfl
@[simp] theorem setBufBlocked_filter (s : State) : (setBufBlocked s).filter = s.filter := rfl
@[simp] theorem setBufBlocked_cipher (s : State) : (setBufBlocked s).cipher = s.cipher := rfl
@[simp] theorem setBufBlocked_key (s : State) : (setBufBlocked s).key = s.key := rfl
@[simp] theorem setBufBlocked_mem (s : State) : (setBufBlocked s).mem = s.mem := rfl
@[simp] theorem setBufBlocked_memDraw (s : State) : (setBufBlocked s).memDraw = s.memDraw := rfl
@[simp] theorem setBufBlocked_draws (s : State) : (setBufBlocked s).draws = s.draws := rfl
@[simp] theorem setBufBlocked_script (s : State) : (setBufBlocked s).script = s.script := rfl
@[simp] theorem setBufBlocked_answers (s : State) : (setBufBlocked s).answers = s.answers := rfl
@[simp] theorem setBufBlocked_readByte (s : State) (x : Nat) :
    (setBufBlocked s).readByte x = s.readByte x := rfl
@[simp] theorem setBufBlocked_memRead (s : State) (x n : Nat) :
    (setBufBlocked s).memRead x n = s.memRead x n := rfl

/-! ### clearSticky -/

@[simp] theorem clearSticky_params (s : State) : (clearSticky s).params = s.params := rfl
@[simp] theorem clearSticky_phase (s : State) : (clearSticky s).phase = s.phase := rfl
@[simp] theorem clearSticky_lastCmd (s : State) : (clearSticky s).lastCmd = s.lastCmd := rfl
@[simp] theorem clearSticky_status_done (s : State) :
    (clearSticky s).status.done = s.status.done := rfl
@[simp] theorem clearSticky_status_err (s : State) :
    (clearSticky s).status.err = s.status.err := rfl
@[simp] theorem clearSticky_status_keyValid (s : State) :
    (clearSticky s).status.keyValid = s.status.keyValid := rfl
@[simp] theorem clearSticky_status_crcMatch (s : State) :
    (clearSticky s).status.crcMatch = s.status.crcMatch := rfl
@[simp] theorem clearSticky_status_keyNarrow (s : State) :
    (clearSticky s).status.keyNarrow = s.status.keyNarrow := rfl
@[simp] theorem clearSticky_status_blockGeN (s : State) :
    (clearSticky s).status.blockGeN = s.status.blockGeN := rfl
@[simp] theorem clearSticky_status_dropNz (s : State) :
    (clearSticky s).status.dropNz = s.status.dropNz := rfl
@[simp] theorem clearSticky_status_busyWrite (s : State) :
    (clearSticky s).status.busyWrite = false := rfl
@[simp] theorem clearSticky_status_bufBlocked (s : State) :
    (clearSticky s).status.bufBlocked = false := rfl
@[simp] theorem clearSticky_err (s : State) : (clearSticky s).err = s.err := rfl
@[simp] theorem clearSticky_irqEn (s : State) : (clearSticky s).irqEn = s.irqEn := rfl
@[simp] theorem clearSticky_donePend (s : State) : (clearSticky s).donePend = s.donePend := rfl
@[simp] theorem clearSticky_operand (s : State) : (clearSticky s).operand = s.operand := rfl
@[simp] theorem clearSticky_out (s : State) : (clearSticky s).out = s.out := rfl
@[simp] theorem clearSticky_framer (s : State) : (clearSticky s).framer = s.framer := rfl
@[simp] theorem clearSticky_filter (s : State) : (clearSticky s).filter = s.filter := rfl
@[simp] theorem clearSticky_cipher (s : State) : (clearSticky s).cipher = s.cipher := rfl
@[simp] theorem clearSticky_key (s : State) : (clearSticky s).key = s.key := rfl
@[simp] theorem clearSticky_mem (s : State) : (clearSticky s).mem = s.mem := rfl
@[simp] theorem clearSticky_memDraw (s : State) : (clearSticky s).memDraw = s.memDraw := rfl
@[simp] theorem clearSticky_draws (s : State) : (clearSticky s).draws = s.draws := rfl
@[simp] theorem clearSticky_script (s : State) : (clearSticky s).script = s.script := rfl
@[simp] theorem clearSticky_answers (s : State) : (clearSticky s).answers = s.answers := rfl
@[simp] theorem clearSticky_readByte (s : State) (x : Nat) :
    (clearSticky s).readByte x = s.readByte x := rfl
@[simp] theorem clearSticky_memRead (s : State) (x n : Nat) :
    (clearSticky s).memRead x n = s.memRead x n := rfl

/-! ### recordAnswer -/

@[simp] theorem recordAnswer_params (a : BusAnswer) (s : State) : (recordAnswer a s).params = s.params := rfl
@[simp] theorem recordAnswer_phase (a : BusAnswer) (s : State) : (recordAnswer a s).phase = s.phase := rfl
@[simp] theorem recordAnswer_lastCmd (a : BusAnswer) (s : State) : (recordAnswer a s).lastCmd = s.lastCmd := rfl
@[simp] theorem recordAnswer_status (a : BusAnswer) (s : State) : (recordAnswer a s).status = s.status := rfl
@[simp] theorem recordAnswer_err (a : BusAnswer) (s : State) : (recordAnswer a s).err = s.err := rfl
@[simp] theorem recordAnswer_irqEn (a : BusAnswer) (s : State) : (recordAnswer a s).irqEn = s.irqEn := rfl
@[simp] theorem recordAnswer_donePend (a : BusAnswer) (s : State) : (recordAnswer a s).donePend = s.donePend := rfl
@[simp] theorem recordAnswer_operand (a : BusAnswer) (s : State) : (recordAnswer a s).operand = s.operand := rfl
@[simp] theorem recordAnswer_out (a : BusAnswer) (s : State) : (recordAnswer a s).out = s.out := rfl
@[simp] theorem recordAnswer_framer (a : BusAnswer) (s : State) : (recordAnswer a s).framer = s.framer := rfl
@[simp] theorem recordAnswer_filter (a : BusAnswer) (s : State) : (recordAnswer a s).filter = s.filter := rfl
@[simp] theorem recordAnswer_cipher (a : BusAnswer) (s : State) : (recordAnswer a s).cipher = s.cipher := rfl
@[simp] theorem recordAnswer_key (a : BusAnswer) (s : State) : (recordAnswer a s).key = s.key := rfl
@[simp] theorem recordAnswer_mem (a : BusAnswer) (s : State) : (recordAnswer a s).mem = s.mem := rfl
@[simp] theorem recordAnswer_memDraw (a : BusAnswer) (s : State) : (recordAnswer a s).memDraw = s.memDraw := rfl
@[simp] theorem recordAnswer_draws (a : BusAnswer) (s : State) : (recordAnswer a s).draws = s.draws := rfl
@[simp] theorem recordAnswer_script (a : BusAnswer) (s : State) : (recordAnswer a s).script = s.script := rfl
@[simp] theorem recordAnswer_answers (a : BusAnswer) (s : State) :
    (recordAnswer a s).answers = a :: s.answers := rfl
@[simp] theorem recordAnswer_readByte (a : BusAnswer) (s : State) (x : Nat) :
    (recordAnswer a s).readByte x = s.readByte x := rfl
@[simp] theorem recordAnswer_memRead (a : BusAnswer) (s : State) (x n : Nat) :
    (recordAnswer a s).memRead x n = s.memRead x n := rfl

end Sys2Proof.Machine
end

