-- ==== Sys2Proof/Laws/Memory.lean ====
section
/-! SUPPORT. The buffer memory: what a write leaves to read, and that every operation keeps the
canonical form and the bound of the addresses. -/

namespace Sys2Proof.Machine

/-! ### Cells of a stored sequence -/

theorem mem_cellsFrom {a : Nat} {bs : Bytes} {c : Host.Cell} (h : c ∈ cellsFrom a bs) :
    a ≤ c.1 ∧ c.1 < a + bs.length := by
  induction bs generalizing a with
  | nil => simp [cellsFrom] at h
  | cons b bs ih =>
    simp only [cellsFrom, List.mem_cons] at h
    rcases h with rfl | h
    · simp
    · have := ih h
      simp only [List.length_cons]
      omega

theorem cellsFrom_wf (a : Nat) (bs : Bytes) : Memory.wf (cellsFrom a bs) := by
  induction bs generalizing a with
  | nil => exact List.Pairwise.nil
  | cons b bs ih =>
    refine List.Pairwise.cons (fun c hc => ?_) (ih (a + 1))
    have := mem_cellsFrom hc
    simp only
    omega

theorem lookup_cellsFrom (a : Nat) (bs : Bytes) (x : Nat) :
    (cellsFrom a bs).lookup x =
      if a ≤ x ∧ x < a + bs.length then some (bs.getD (x - a) 0#8) else none := by
  induction bs generalizing a with
  | nil => simp [cellsFrom]
  | cons b bs ih =>
    simp only [cellsFrom, List.lookup_cons, ih (a + 1), List.length_cons]
    by_cases hx : x = a
    · subst hx; simp
    · have hne : (x == a) = false := by simpa using hx
      simp only [hne]
      by_cases hlt : a + 1 ≤ x ∧ x < a + 1 + bs.length
      · have h2 : a ≤ x ∧ x < a + (bs.length + 1) := by omega
        have h3 : x - a = (x - (a + 1)) + 1 := by omega
        simp [hlt, h2, h3]
      · have h2 : ¬ (a ≤ x ∧ x < a + (bs.length + 1)) := by omega
        rw [if_neg hlt, if_neg h2]

theorem lookup_filter_addr (p : Nat → Bool) (m : Memory) (x : Nat) :
    (m.filter fun c => p c.1).lookup x = if p x then m.lookup x else none := by
  induction m with
  | nil => simp
  | cons c m ih =>
    obtain ⟨k, v⟩ := c
    by_cases hx : x = k
    · subst hx
      by_cases hk : p x
      · simp [hk]
      · rw [List.filter_cons_of_neg (by simpa using hk), ih]
        simp [hk]
    · have hx' : (x == k) = false := by simpa using hx
      by_cases hk : p k
      · simp [hk, List.lookup_cons, hx', ih]
      · rw [List.filter_cons_of_neg (by simpa using hk), ih, List.lookup_cons, hx']

/-! ### One write -/

theorem Memory.lookup_write (m : Memory) (a : Nat) (bs : Bytes) (x : Nat) :
    (m.write a bs).lookup x =
      if a ≤ x ∧ x < a + bs.length then some (bs.getD (x - a) 0#8) else m.lookup x := by
  unfold Memory.write
  rw [List.lookup_append, List.lookup_append, lookup_cellsFrom,
    lookup_filter_addr (fun k => decide (k < a)),
    lookup_filter_addr (fun k => decide (a + bs.length ≤ k))]
  by_cases h1 : x < a
  · have h2 : ¬ (a ≤ x ∧ x < a + bs.length) := by omega
    have h3 : ¬ (a + bs.length ≤ x) := by omega
    simp [h1, h2, h3]
  · by_cases h2 : x < a + bs.length
    · have h4 : a ≤ x ∧ x < a + bs.length := by omega
      simp [h1, h4]
    · have h4 : ¬ (a ≤ x ∧ x < a + bs.length) := by omega
      have h3 : a + bs.length ≤ x := by omega
      simp [h1, h4, h3]

theorem Memory.write_wf {m : Memory} (h : m.wf) (a : Nat) (bs : Bytes) : (m.write a bs).wf := by
  unfold Memory.write
  refine List.pairwise_append.2 ⟨h.filter _, List.pairwise_append.2 ⟨cellsFrom_wf a bs, h.filter _, ?_⟩, ?_⟩
  · intro c hc d hd
    have h1 := mem_cellsFrom hc
    have h2 := (List.mem_filter.1 hd).2
    simp only [decide_eq_true_eq] at h2
    omega
  · intro c hc d hd
    have h1 := (List.mem_filter.1 hc).2
    simp only [decide_eq_true_eq] at h1
    rcases List.mem_append.1 hd with hd | hd
    · have := mem_cellsFrom hd
      omega
    · have h2 := (List.mem_filter.1 hd).2
      simp only [decide_eq_true_eq] at h2
      omega

/-- Every address a memory lists is below `n`. -/
def Memory.Below (m : Memory) (n : Nat) : Prop := ∀ c ∈ m, c.1 < n

theorem Memory.write_below {m : Memory} {n a : Nat} {bs : Bytes} (h : m.Below n)
    (hb : bs = [] ∨ a + bs.length ≤ n) : (m.write a bs).Below n := by
  intro c hc
  unfold Memory.write at hc
  rcases List.mem_append.1 hc with hc | hc
  · exact h c (List.mem_filter.1 hc).1
  · rcases List.mem_append.1 hc with hc | hc
    · have := mem_cellsFrom hc
      rcases hb with rfl | hb
      · simp at this; omega
      · omega
    · exact h c (List.mem_filter.1 hc).1

theorem Memory.write_nil {m : Memory} (h : m.wf) (a : Nat) : m.write a [] = m := by
  induction m with
  | nil => rfl
  | cons c m ih =>
    have hw := List.pairwise_cons.1 h
    have ih' := ih hw.2
    by_cases hc : c.1 < a
    · have h2 : ¬ (a ≤ c.1) := by omega
      simp only [Memory.write, cellsFrom, List.filter_cons, hc, decide_true, if_true, List.length_nil,
        Nat.add_zero, h2, List.nil_append, decide_false, List.cons_append] at ih' ⊢
      simpa using ih'
    · have h3 : m.filter (fun d => decide (d.1 < a)) = [] := by
        refine List.filter_eq_nil_iff.2 fun d hd => ?_
        have := hw.1 d hd
        simp; omega
      have h4 : m.filter (fun d => decide (a ≤ d.1)) = m := by
        refine List.filter_eq_self.2 fun d hd => ?_
        have := hw.1 d hd
        simp; omega
      have h2 : a ≤ c.1 := by omega
      simp [Memory.write, cellsFrom, hc, h2, h3, h4]

/-! ### Reading and writing the state's memory -/

theorem readByte_memWrite (s : State) (a : Nat) (bs : Bytes) (x : Nat) :
    (s.memWrite a bs).readByte x =
      if a ≤ x ∧ x < a + bs.length then bs.getD (x - a) 0#8 else s.readByte x := by
  simp only [State.readByte, memWrite_mem, Memory.lookup_write, State.unwrittenByte, memWrite_memDraw]
  split <;> rfl

theorem readByte_memWrite_outside (s : State) (a : Nat) (bs : Bytes) (x : Nat)
    (h : ¬ (a ≤ x ∧ x < a + bs.length)) : (s.memWrite a bs).readByte x = s.readByte x := by
  rw [readByte_memWrite, if_neg h]

theorem readByte_congr {s t : State} (hm : t.mem = s.mem) (hd : t.memDraw = s.memDraw) (x : Nat) :
    t.readByte x = s.readByte x := by
  simp [State.readByte, State.unwrittenByte, hm, hd]

theorem memRead_congr {s t : State} (a n : Nat)
    (h : ∀ i, i < n → t.readByte (a + i) = s.readByte (a + i)) : t.memRead a n = s.memRead a n := by
  unfold State.memRead
  refine List.map_congr_left fun i hi => h i (List.mem_range.1 hi)

@[simp] theorem memRead_length (s : State) (a n : Nat) : (s.memRead a n).length = n := by
  simp [State.memRead]

theorem memRead_getD (s : State) (a n i : Nat) (h : i < n) :
    (s.memRead a n).getD i 0#8 = s.readByte (a + i) := by
  simp [State.memRead, List.getD_eq_getElem?_getD, h]

theorem memRead_add (s : State) (a m n : Nat) :
    s.memRead a (m + n) = s.memRead a m ++ s.memRead (a + m) n := by
  simp [State.memRead, List.range_add, Function.comp_def, Nat.add_assoc]

theorem memRead_memWrite_same (s : State) (a : Nat) (bs : Bytes) :
    (s.memWrite a bs).memRead a bs.length = bs := by
  refine List.ext_getElem (by simp) fun i h1 h2 => ?_
  have h : a ≤ a + i ∧ a + i < a + bs.length := by omega
  simp [State.memRead, readByte_memWrite, h2, List.getD_eq_getElem?_getD]

theorem memRead_memWrite_disjoint (s : State) (a : Nat) (bs : Bytes) (x n : Nat)
    (h : x + n ≤ a ∨ a + bs.length ≤ x) : (s.memWrite a bs).memRead x n = s.memRead x n := by
  refine memRead_congr x n fun i hi => readByte_memWrite_outside s a bs (x + i) ?_
  omega

theorem readByte_drawRegion (s : State) (a n x : Nat) :
    (s.drawRegion a n).readByte x =
      if a ≤ x ∧ x < a + n ∧ x < s.params.memBytes then Config.freeByte s.draws x
      else s.readByte x := by
  have key : (s.drawRegion a n).readByte x = (s.memWrite a ((List.range (min n (s.params.memBytes - a))).map
      fun i => Config.freeByte s.draws (a + i))).readByte x := rfl
  rw [key, readByte_memWrite]
  simp only [List.length_map, List.length_range]
  by_cases h : a ≤ x ∧ x < a + min n (s.params.memBytes - a)
  · have h2 : a ≤ x ∧ x < a + n ∧ x < s.params.memBytes := by omega
    have h3 : x - a < min n (s.params.memBytes - a) := by omega
    have h4 : a + (x - a) = x := by omega
    rw [if_pos h, if_pos h2, List.getD_eq_getElem?_getD, List.getElem?_map,
      List.getElem?_range h3]
    simp [h4]
  · have h2 : ¬ (a ≤ x ∧ x < a + n ∧ x < s.params.memBytes) := by omega
    rw [if_neg h, if_neg h2]

theorem drawRegion_wf {s : State} (h : s.mem.wf) (a n : Nat) : (s.drawRegion a n).mem.wf :=
  Memory.write_wf h _ _

theorem drawRegion_below {s : State} (h : s.mem.Below s.params.memBytes) (a n : Nat) :
    (s.drawRegion a n).mem.Below s.params.memBytes := by
  refine Memory.write_below h ?_
  simp only [List.length_map, List.length_range, List.map_eq_nil_iff, List.range_eq_nil]
  omega

end Sys2Proof.Machine
end

