-- ==== Sys2Proof/Laws/Outputs.lean ====
section
/-! SUPPORT. How many bytes each output has: the records and descriptors of the framer, the rows of the
filter, the streams of the cipher. -/

namespace Sys2Proof.Machine

/-! ### Framer -/

@[simp] theorem recordBytes_length (type data : Bytes) (crc : Word) :
    (recordBytes type data crc).length = 8 + type.length + data.length := by
  simp [recordBytes]
  omega

@[simp] theorem typeBytes_length (s : State) : s.typeBytes.length = 4 := by simp [State.typeBytes]

@[simp] theorem dataBytes_length (s : State) : s.dataBytes.length = s.framer.chLen.toNat := by
  simp [State.dataBytes]

@[simp] theorem signature_length : signature.length = 8 := rfl

@[simp] theorem chunkAt_type_length (s : State) (c : Nat) : (s.chunkAt c).type.length = 4 := by
  simp [State.chunkAt]

theorem descriptorBytes_length (k : Chunk) (h : k.type.length = 4) : (descriptorBytes k).length = 16 := by
  simp [descriptorBytes, h]

theorem descriptors_length (ks : List Chunk) (h : ∀ k ∈ ks, k.type.length = 4) :
    (ks.flatMap descriptorBytes).length = 16 * ks.length := by
  induction ks with
  | nil => rfl
  | cons k ks ih =>
    rw [List.flatMap_cons, List.length_append, descriptorBytes_length k (h k (by simp)),
      ih fun q hq => h q (by simp [hq]), List.length_cons]
    omega

/-- What the chunk loop frames: it extends what it was given by records of SRC, with room for every
descriptor, the last of them the IEND (41_framer.md R178, R179). -/
theorem parseLoop_ok {s : State} {fuel pos : Nat} {ks out : List Chunk}
    (h : parseLoop s fuel pos ks = .ok out) :
    ∃ more last, out = ks ++ more ++ [last] ∧ last.type = tagIEND ∧
      (∀ k ∈ more ++ [last], ∃ c, k = s.chunkAt c) ∧ (∀ k ∈ more, k.type ≠ tagIEND) ∧
      16 * out.length ≤ s.operand.dstLen.toNat := by
  induction fuel generalizing pos ks with
  | zero => cases h
  | succ fuel ih =>
    rw [parseLoop] at h
    by_cases h1 : pos = s.operand.srcLen.toNat
    · rw [if_pos h1] at h
      cases h
    rw [if_neg h1] at h
    cases ht : truncationFault s ks.length pos with
    | some f => rw [ht] at h; cases h
    | none =>
      simp only [ht] at h
      by_cases h2 : 16 * (ks.length + 1) > s.operand.dstLen.toNat
      · rw [if_pos h2] at h
        cases h
      rw [if_neg h2] at h
      by_cases h3 : (s.chunkAt pos).type = tagIEND
      · rw [if_pos h3] at h
        cases h
        exact ⟨[], s.chunkAt pos, by simp, h3, by simp, by simp, by simpa using h2⟩
      · rw [if_neg h3] at h
        obtain ⟨more, last, ho, hl, hk, hn, hd⟩ := ih h
        refine ⟨s.chunkAt pos :: more, last, by simpa using ho, hl, ?_, ?_, hd⟩
        · intro k hk'
          rw [List.cons_append] at hk'
          rcases List.mem_cons.1 hk' with rfl | hk'
          · exact ⟨pos, rfl⟩
          · exact hk k hk'
        · intro k hk'
          rcases List.mem_cons.1 hk' with rfl | hk'
          · exact h3
          · exact hn k hk'

/-- The framed chunks of a stream: their descriptors fill the table entries exactly, and fit. -/
theorem parseChunks_ok {s : State} {ks : List Chunk} (h : parseChunks s = .ok ks) :
    (ks.flatMap descriptorBytes).length = 16 * ks.length ∧
      16 * ks.length ≤ s.operand.dstLen.toNat ∧ 0 < ks.length := by
  obtain ⟨more, last, rfl, -, hk, -, hd⟩ := parseLoop_ok h
  refine ⟨descriptors_length _ fun k hk' => ?_, hd, by simp⟩
  obtain ⟨c, rfl⟩ := hk k (by simpa using hk')
  simp

/-! ### Filter -/

theorem reconRow_length (type bpp : Nat) (above done row : Bytes) :
    (reconRow type bpp above done row).length = done.length + row.length := by
  induction row generalizing done with
  | nil => rfl
  | cons b row ih =>
    rw [reconRow]
    simp only [ih, List.length_append, List.length_cons, List.length_nil]
    omega

theorem defilterRows_length (bpp r n : Nat) (above stream : Bytes) (h : stream.length = n * (r + 1)) :
    (defilterRows bpp r n above stream).length = n * r := by
  induction n generalizing above stream with
  | zero => simp [defilterRows]
  | succ n ih =>
    have h' : (n + 1) * (r + 1) = n * (r + 1) + (r + 1) := by ring
    simp only [defilterRows, List.length_append, reconRow_length, List.length_nil, List.length_take,
      List.length_drop, Nat.zero_add]
    rw [ih _ _ (by rw [List.length_drop]; omega), h, h']
    have : min r (n * (r + 1) + (r + 1) - 1) = r := by omega
    rw [this]
    ring

theorem refilterRows_length (r n : Nat) (raw : Bytes) (h : raw.length = n * r) :
    (refilterRows r n raw).length = n * (r + 1) := by
  induction n generalizing raw with
  | zero => simp [refilterRows]
  | succ n ih =>
    have h' : (n + 1) * r = n * r + r := by ring
    simp only [refilterRows, List.length_cons, List.length_append, List.length_take]
    rw [ih _ (by rw [List.length_drop]; omega), h, h']
    have : min r (n * r + r) = r := by omega
    rw [this]
    ring

@[simp] theorem srcBytes_length (s : State) : s.srcBytes.length = s.operand.srcLen.toNat := by
  simp [State.srcBytes]

/-! ### Cipher -/

theorem flatMap_length_const {α : Type} (l : List α) (f : α → Bytes) (n : Nat)
    (h : ∀ x ∈ l, (f x).length = n) : (l.flatMap f).length = l.length * n := by
  induction l with
  | nil => simp
  | cons x l ih =>
    rw [List.flatMap_cons, List.length_append, h x (by simp), ih fun y hy => h y (by simp [hy]),
      List.length_cons]
    ring

theorem mem_ecbCipherBlocks {k : KeyRegs} {n : Nat} {plain cb : Bytes}
    (h : cb ∈ ecbCipherBlocks k n plain) : cb.length = k.kb := by
  obtain ⟨m, -, rfl⟩ := List.mem_map.1 h
  simp

@[simp] theorem ecbCipherBlocks_length (k : KeyRegs) (n : Nat) (plain : Bytes) :
    (ecbCipherBlocks k n plain).length = n := by
  simp [ecbCipherBlocks, ecbPlainValues]

/-- The main stream of RC_ECB_ENC: U bytes a block (43_cipher.md R266). -/
theorem ecbMain_length (k : KeyRegs) (n : Nat) (plain : Bytes) :
    ((ecbCipherBlocks k n plain).flatMap fun cb => cb.take k.ku).length = k.ku * n := by
  rw [flatMap_length_const _ _ k.ku, ecbCipherBlocks_length, Nat.mul_comm]
  intro cb hcb
  rw [List.length_take, mem_ecbCipherBlocks hcb]
  unfold KeyRegs.ku
  omega

/-- The side channel of RC_ECB_ENC: one byte a block (43_cipher.md R266). -/
theorem ecbExtra_length (k : KeyRegs) (n : Nat) (plain : Bytes) :
    ((ecbCipherBlocks k n plain).flatMap fun cb => cb.drop k.ku).length = n * min 1 k.kb := by
  rw [flatMap_length_const _ _ (min 1 k.kb), ecbCipherBlocks_length]
  intro cb hcb
  rw [List.length_drop, mem_ecbCipherBlocks hcb]
  unfold KeyRegs.ku
  omega

/-- Keeping `min u (l - i u)` bytes of block `i` for `n` blocks keeps `min (n u) l` bytes. -/
theorem sum_kept (u l n : Nat) : ((List.range n).map fun i => min u (l - i * u)).sum = min (n * u) l := by
  induction n with
  | zero => simp
  | succ n ih =>
    rw [List.range_succ, List.map_append, List.sum_append, ih]
    have : (n + 1) * u = n * u + u := by ring
    simp only [List.map_cons, List.map_nil, List.sum_cons, List.sum_nil]
    omega

/-- The plaintext of RC_ECB_DEC, when PLAIN_LEN fits the blocks (43_cipher.md R267). -/
theorem ecbPlain_length (k : KeyRegs) (l : Nat) (values : List Nat) (h : l ≤ values.length * k.ku) :
    ((ecbPlainBlocks k l values).flatMap fun p => p.2.drop (k.kb - p.1)).length = l := by
  have h1 : (ecbPlainBlocks k l values).map (fun p => (p.2.drop (k.kb - p.1)).length) =
      (List.range values.length).map fun i => min k.ku (l - i * k.ku) := by
    refine List.ext_getElem (by simp [ecbPlainBlocks]) fun i h1 h2 => ?_
    have hu : k.ku ≤ k.kb := by unfold KeyRegs.ku; omega
    simp [ecbPlainBlocks]
    omega
  rw [List.length_flatMap, h1, sum_kept, Nat.min_eq_right h]

@[simp] theorem ecbCipherValues_length (k : KeyRegs) (n : Nat) (main extra : Bytes) :
    (ecbCipherValues k n main extra).length = n := by
  simp [ecbCipherValues]

@[simp] theorem cfbKeystream_length (k : KeyRegs) (fb : Nat) : (cfbKeystream k fb).length = k.kb := by
  simp [cfbKeystream]

theorem cfbEncSegments_length (k : KeyRegs) (n fb : Nat) (plain : Bytes) :
    (cfbEncSegments k n fb plain).length = min (n * k.kb) plain.length := by
  induction n generalizing fb plain with
  | zero => simp [cfbEncSegments]
  | succ n ih =>
    have : (n + 1) * k.kb = n * k.kb + k.kb := by ring
    simp only [cfbEncSegments, List.length_append, ih, xorBytes, List.length_zipWith, List.length_take,
      cfbKeystream_length, List.length_drop]
    omega

theorem cfbDecSegments_length (k : KeyRegs) (n fb : Nat) (cipher : Bytes) :
    (cfbDecSegments k n fb cipher).length = min (n * k.kb) cipher.length := by
  induction n generalizing fb cipher with
  | zero => simp [cfbDecSegments]
  | succ n ih =>
    have : (n + 1) * k.kb = n * k.kb + k.kb := by ring
    simp only [cfbDecSegments, List.length_append, ih, xorBytes, List.length_zipWith, List.length_take,
      cfbKeystream_length, List.length_drop]
    omega

theorem le_ceilDiv_mul (l u : Nat) (h : 0 < u) : l ≤ ceilDiv l u * u := by
  unfold ceilDiv
  have h1 := Nat.div_add_mod (l + u - 1) u
  have h2 := Nat.mod_lt (l + u - 1) h
  rw [Nat.mul_comm u] at h1
  omega

end Sys2Proof.Machine
end

