-- ==== Sys2Proof/Laws/Outcomes.lean ====
section
/-! SUPPORT. What a command, an event and a step can do, each said once: later proofs cite these and
unfold no meaning. -/

namespace Sys2Proof.Machine

/-! ### The two templates -/

theorem runChecked_next {check : Option CmdFault} {effect : State → State} {s t : State} :
    runChecked check effect s = .next t ↔
      (∃ f, check = some f ∧ t = takeFault f s) ∨ (check = none ∧ t = effect s) := by
  cases check <;> simp [runChecked, eq_comm]

theorem runStream_next {check : State → Option CmdFault} {effect : State → State} {s t : State} :
    runStream check effect s = .next t ↔
      (s.status.keyValid = false ∧ t = takeFault { code := .keyNotLoaded, expected := 1 } s) ∨
      (s.status.keyValid = true ∧ s.operand.srcLen.toNat = 0 ∧ t = complete 0 0 s) ∨
      (s.status.keyValid = true ∧ 0 < s.operand.srcLen.toNat ∧
        ((∃ f, check s = some f ∧ t = takeFault f s) ∨ (check s = none ∧ t = effect s))) := by
  unfold runStream keyNotLoadedFault
  cases hk : s.status.keyValid with
  | false => simp [eq_comm]
  | true =>
    simp only [if_true, Bool.true_eq_false, false_and, true_and, false_or]
    by_cases hl : s.operand.srcLen.toNat = 0
    · rw [if_pos hl]
      simp [hl, eq_comm]
    · rw [if_neg hl, runChecked_next]
      simp [hl, Nat.pos_of_ne_zero hl]

/-! ### Commands -/

/-- The stream commands' success: the zero-length no-op, or the effect (43_cipher.md R265, R274). -/
def StreamSuccess (check : State → Option CmdFault) (effect : State → State) (s t : State) : Prop :=
  s.status.keyValid = true ∧
    ((s.operand.srcLen.toNat = 0 ∧ t = complete 0 0 s) ∨
     (0 < s.operand.srcLen.toNat ∧ check s = none ∧ t = effect s))

/-- The success of each command: its checks passed, and what it leaves. -/
def Success (i : Instr) (s t : State) : Prop :=
  match i with
  | .nop => t = complete 0 0 s
  | .frReadChunk =>
    s.framer.cursor.toNat ≤ s.operand.srcLen.toNat ∧ RegionsLegal .frReadChunk s ∧
      truncationFault s 0 s.framer.cursor.toNat = none ∧ t = readChunkEffect s
  | .frParseDoc =>
    RegionsLegal .frParseDoc s ∧ signatureFault s = none ∧
      ∃ ks, parseChunks s = .ok ks ∧ requireIhdr ks = .ok ks ∧ t = parseDocEffect ks s
  | .frWriteChunkStored =>
    RegionsLegal .frWriteChunkStored s ∧ 12 + s.framer.chLen.toNat ≤ s.operand.dstLen.toNat ∧
      t = writeRecord s.framer.chCrc s
  | .frWriteChunkRecomp =>
    RegionsLegal .frWriteChunkRecomp s ∧ 12 + s.framer.chLen.toNat ≤ s.operand.dstLen.toNat ∧
      t = writeRecord s.chunkCrc { s with framer := { s.framer with chCrcCalc := s.chunkCrc } }
  | .frWriteChunkPlace =>
    RegionsLegal .frWriteChunkPlace s ∧ 12 + s.framer.chLen.toNat ≤ s.operand.dstLen.toNat ∧
      t = writeRecord s.framer.crcPlaceholder s
  | .frCrcChunk =>
    RegionsLegal .frCrcChunk s ∧
      t = complete 0 0
        { s.setCrcMatch (s.framer.chCrc == s.chunkCrc) with
          framer := { s.framer with chCrcCalc := s.chunkCrc } }
  | .frWriteSig =>
    RegionsLegal .frWriteSig s ∧ 8 ≤ s.operand.dstLen.toNat ∧
      t = complete 8 0 (s.memWrite s.operand.dstAddr.toNat signature)
  | .sfDefilter =>
    bppFault s = none ∧ RegionsLegal .sfDefilter s ∧ s.operand.srcLen.toNat = s.filteredLen ∧
      s.rawLen ≤ s.operand.dstLen.toNat ∧ filterTypeFault s = none ∧
      t = complete s.rawLen 0
        (s.memWrite s.operand.dstAddr.toNat
          (defilterRows s.filter.bpp.toNat s.rowBytes s.rows [] s.srcBytes))
  | .sfRefilterNone =>
    bppFault s = none ∧ RegionsLegal .sfRefilterNone s ∧ s.operand.srcLen.toNat = s.rawLen ∧
      s.filteredLen ≤ s.operand.dstLen.toNat ∧
      t = complete s.filteredLen 0
        (s.memWrite s.operand.dstAddr.toNat (refilterRows s.rowBytes s.rows s.srcBytes))
  | .rcLoadKey =>
    (9 ≤ s.cipher.keyBits.toNat ∧ s.cipher.keyBits.toNat ≤ s.params.kmaxBits) ∧
      RegionsLegal .rcLoadKey s ∧ s.keyPart 0 ≠ 0 ∧ t = loadKeyEffect s
  | .rcEcbEnc => StreamSuccess ecbEncFault ecbEncEffect s t
  | .rcEcbDec => StreamSuccess ecbDecFault ecbDecEffect s t
  | .rcCfbEnc => StreamSuccess (cfbFault .rcCfbEnc) (cfbEffect cfbEncSegments) s t
  | .rcCfbDec => StreamSuccess (cfbFault .rcCfbDec) (cfbEffect cfbDecSegments) s t
  | .rcModexpE => modexpFault .rcModexpE s = none ∧ t = modexpEffect s.key.ke s
  | .rcModexpD => modexpFault .rcModexpD s = none ∧ t = modexpEffect s.key.kd s
  | .rcClearKey => t = complete 0 0 (clearKey s)

theorem stream_cases {check : State → Option CmdFault} {effect : State → State} {s t : State}
    (h : runStream check effect s = .next t) :
    (∃ f, t = takeFault f s) ∨ StreamSuccess check effect s t := by
  rcases runStream_next.1 h with ⟨-, ht⟩ | ⟨hk, hl, ht⟩ | ⟨hk, hl, ⟨f, -, ht⟩ | ⟨hc, ht⟩⟩
  · exact .inl ⟨_, ht⟩
  · exact .inr ⟨hk, .inl ⟨hl, ht⟩⟩
  · exact .inl ⟨f, ht⟩
  · exact .inr ⟨hk, .inr ⟨hl, hc, ht⟩⟩

theorem parseDocRun_cases (s : State) :
    (∃ f, parseDocRun s = parseDocFault f s) ∨
      ∃ ks, parseChunks s = .ok ks ∧ requireIhdr ks = .ok ks ∧ parseDocRun s = parseDocEffect ks s := by
  unfold parseDocRun
  cases hp : parseChunks s with
  | error f => exact .inl ⟨f, rfl⟩
  | ok ks =>
    by_cases hi : ks.any (fun k => k.type == tagIHDR) = true
    · exact .inr ⟨ks, rfl, by rw [requireIhdr, if_pos hi], by simp only [requireIhdr, if_pos hi]⟩
    · exact .inl ⟨missingIhdr ks.length, by simp only [requireIhdr, if_neg hi]⟩

/-- Everything a command can do: a fault, an execution fault of FR_PARSE_DOC, or its success. -/
theorem exec_cases {i : Instr} {s t : State} (h : exec i s = .next t) :
    (∃ f, t = takeFault f (faultBase i s)) ∨
    (i = .frParseDoc ∧ RegionsLegal .frParseDoc s ∧ ∃ f, t = parseDocFault f s) ∨
    Success i s t := by
  cases i <;> simp only [exec] at h
  case nop => exact .inr (.inr (Host.Outcome.next.inj h).symm)
  case rcClearKey => exact .inr (.inr (Host.Outcome.next.inj h).symm)
  case frReadChunk =>
    rcases runChecked_next.1 h with ⟨f, -, ht⟩ | ⟨hc, ht⟩
    · exact .inl ⟨f, ht⟩
    · rw [check_or_eq_none, check_or_eq_none, cursorFault_eq_none_iff, regionFault_eq_none_iff] at hc
      exact .inr (.inr ⟨hc.1, hc.2.1, hc.2.2, ht⟩)
  case frParseDoc =>
    rcases runChecked_next.1 h with ⟨f, -, ht⟩ | ⟨hc, ht⟩
    · exact .inl ⟨f, ht⟩
    · rw [check_or_eq_none, regionFault_eq_none_iff] at hc
      rcases parseDocRun_cases s with ⟨f, hf⟩ | ⟨ks, hk, hi, hf⟩
      · exact .inr (.inl ⟨rfl, hc.1, f, ht.trans hf⟩)
      · exact .inr (.inr ⟨hc.1, hc.2, ks, hk, hi, ht.trans hf⟩)
  case rcLoadKey =>
    unfold execRcLoadKey at h
    split at h
    · exact .inl ⟨_, (Host.Outcome.next.inj h).symm⟩
    · rename_i hc
      rw [check_or_eq_none, check_or_eq_none, regionFault_eq_none_iff, keyBitsFault_eq_none_iff,
        keyInvalidFault_eq_none_iff] at hc
      exact .inr (.inr ⟨hc.1, hc.2.1, hc.2.2, (Host.Outcome.next.inj h).symm⟩)
  case rcEcbEnc => exact (stream_cases h).imp id .inr
  case rcEcbDec => exact (stream_cases h).imp id .inr
  case rcCfbEnc => exact (stream_cases h).imp id .inr
  case rcCfbDec => exact (stream_cases h).imp id .inr
  all_goals
    rcases runChecked_next.1 h with ⟨f, -, ht⟩ | ⟨hc, ht⟩
    · exact .inl ⟨f, ht⟩
    · refine .inr (.inr ?_)
      try simp only [writeChunkFault, check_or_eq_none, regionFault_eq_none_iff,
        dstOverflowFault_eq_none_iff, pixelDataFault_eq_none_iff, rawLengthFault_eq_none_iff] at hc
      simp only [Success]
      tauto

theorem runChecked_total (check : Option CmdFault) (effect : State → State) (s : State) :
    ∃ t, runChecked check effect s = .next t := by
  cases check <;> exact ⟨_, rfl⟩

theorem runStream_total (check : State → Option CmdFault) (effect : State → State) (s : State) :
    ∃ t, runStream check effect s = .next t := by
  unfold runStream
  split
  · exact ⟨_, rfl⟩
  · split
    · exact ⟨_, rfl⟩
    · exact runChecked_total _ _ _

/-- A command always answers a next state: a fault completes it too (60_exceptions.md R322). -/
theorem exec_next (i : Instr) (s : State) : ∃ t, exec i s = .next t := by
  cases i
  case nop => exact ⟨_, rfl⟩
  case rcClearKey => exact ⟨_, rfl⟩
  case rcLoadKey => simp only [exec, execRcLoadKey]; split <;> exact ⟨_, rfl⟩
  case rcEcbEnc => exact runStream_total _ _ _
  case rcEcbDec => exact runStream_total _ _ _
  case rcCfbEnc => exact runStream_total _ _ _
  case rcCfbDec => exact runStream_total _ _ _
  all_goals
    simp only [exec]
    exact runChecked_total _ _ s

/-! ### What a success writes to memory -/

/-- The length checks of ECB and CFB leave room for what is written. -/
theorem ecbEncFault_none {s : State} (h : ecbEncFault s = none) :
    RegionsLegal .rcEcbEnc s ∧ s.key.ku * s.blockCount ≤ s.operand.dstLen.toNat ∧
      s.blockCount ≤ s.operand.extLen.toNat := by
  simpa only [ecbEncFault, check_or_eq_none, regionFault_eq_none_iff, dstOverflowFault_eq_none_iff,
    extOverflowFault_eq_none_iff] using h

theorem ecbDecFault_none {s : State} (h : ecbDecFault s = none) :
    RegionsLegal .rcEcbDec s ∧ ecbDecLengthFault s = none ∧
      s.cipher.plainLen.toNat ≤ s.operand.dstLen.toNat := by
  simpa only [ecbDecFault, check_or_eq_none, regionFault_eq_none_iff,
    dstOverflowFault_eq_none_iff] using h

theorem cfbFault_none {i : Instr} {s : State} (h : cfbFault i s = none) :
    RegionsLegal i s ∧ s.operand.srcLen.toNat ≤ s.operand.dstLen.toNat := by
  simpa only [cfbFault, check_or_eq_none, regionFault_eq_none_iff, dstOverflowFault_eq_none_iff] using h

theorem modexpFault_none {i : Instr} {s : State} (h : modexpFault i s = none) :
    s.status.keyValid = true ∧ (0 < s.operand.srcLen.toNat ∧ s.operand.srcLen.toNat ≤ s.key.kb) ∧
      RegionsLegal i s ∧ s.key.kb ≤ s.operand.dstLen.toNat := by
  simpa only [modexpFault, check_or_eq_none, keyNotLoadedFault_eq_none_iff,
    blockLenFault_eq_none_iff, regionFault_eq_none_iff, dstOverflowFault_eq_none_iff] using h

/-- What a success leaves in memory: nothing new; or one output at DST, no longer than OUT_LEN and than
DST_LEN; or, for RC_ECB_ENC, one at DST and one at EXT (20_memory.md R89). -/
def MemoryAfter (i : Instr) (s t : State) : Prop :=
  t.mem = s.mem ∨
  (RegionsLegal i s ∧ dstRegion s ∈ regions i s ∧ ∃ main : Bytes,
    t.mem = s.mem.write s.operand.dstAddr.toNat main ∧
    main.length ≤ t.out.len.toNat ∧ main.length ≤ s.operand.dstLen.toNat) ∨
  (i = .rcEcbEnc ∧ RegionsLegal .rcEcbEnc s ∧ ∃ main extra : Bytes,
    t.mem = (s.mem.write s.operand.dstAddr.toNat main).write s.operand.extAddr.toNat extra ∧
    (main.length ≤ t.out.len.toNat ∧ main.length ≤ s.operand.dstLen.toNat) ∧
    extra.length ≤ t.out.extLen.toNat ∧ extra.length ≤ s.operand.extLen.toNat)

theorem one_output {i : Instr} {s t : State} (main : Bytes) (n : Nat) (hr : RegionsLegal i s)
    (hd : dstRegion s ∈ regions i s) (hm : t.mem = s.mem.write s.operand.dstAddr.toNat main)
    (ho : t.out.len = word n) (hl : main.length ≤ n) (hn : n ≤ s.operand.dstLen.toNat) :
    MemoryAfter i s t := by
  refine .inr (.inl ⟨hr, hd, main, hm, ?_, by omega⟩)
  rw [ho, word_toNat_of_lt n (by have := s.operand.dstLen.isLt; omega)]
  exact hl

theorem Success.memoryAfter {i : Instr} {s t : State} (h : Success i s t) : MemoryAfter i s t := by
  cases i <;> simp only [Success] at h
  case nop => exact .inl (h ▸ rfl)
  case rcClearKey => exact .inl (h ▸ rfl)
  case frReadChunk => exact .inl (h.2.2.2 ▸ rfl)
  case frCrcChunk => exact .inl (h.2 ▸ rfl)
  case rcLoadKey => exact .inl (h.2.2.2 ▸ rfl)
  case frParseDoc =>
    obtain ⟨hr, -, ks, hk, -, rfl⟩ := h
    obtain ⟨hl, hd, -⟩ := parseChunks_ok hk
    exact one_output _ _ hr (by simp [regions]) rfl rfl hl.le hd
  case frWriteChunkStored =>
    obtain ⟨hr, hd, rfl⟩ := h
    exact one_output _ _ hr (by simp [regions]) rfl rfl (by simp) hd
  case frWriteChunkRecomp =>
    obtain ⟨hr, hd, rfl⟩ := h
    exact one_output _ _ hr (by simp [regions]) rfl rfl (by simp) hd
  case frWriteChunkPlace =>
    obtain ⟨hr, hd, rfl⟩ := h
    exact one_output _ _ hr (by simp [regions]) rfl rfl (by simp) hd
  case frWriteSig =>
    obtain ⟨hr, hd, rfl⟩ := h
    exact one_output _ _ hr (by simp [regions]) rfl rfl (by simp) hd
  case sfDefilter =>
    obtain ⟨-, hr, hs, hd, -, rfl⟩ := h
    refine one_output _ _ hr (by simp [regions]) rfl rfl (le_of_eq ?_) hd
    exact defilterRows_length _ _ _ _ _ (by rw [srcBytes_length, hs]; rfl)
  case sfRefilterNone =>
    obtain ⟨-, hr, hs, hd, rfl⟩ := h
    refine one_output _ _ hr (by simp [regions]) rfl rfl (le_of_eq ?_) hd
    exact refilterRows_length _ _ _ (by rw [srcBytes_length, hs]; rfl)
  case rcEcbEnc =>
    obtain ⟨-, ⟨-, rfl⟩ | ⟨-, hc, rfl⟩⟩ := h
    · exact .inl rfl
    · obtain ⟨hr, hd, he⟩ := ecbEncFault_none hc
      have h1 : (word (s.key.ku * s.blockCount)).toNat = s.key.ku * s.blockCount :=
        word_toNat_of_lt _ (by have := s.operand.dstLen.isLt; omega)
      have h2 : (word s.blockCount).toNat = s.blockCount :=
        word_toNat_of_lt _ (by have := s.operand.extLen.isLt; omega)
      have h3 : s.blockCount * min 1 s.key.kb ≤ s.blockCount :=
        by
        simpa using Nat.mul_le_mul_left s.blockCount (Nat.min_le_left 1 s.key.kb)
      refine .inr (.inr ⟨rfl, hr, _, _, rfl, ⟨?_, ?_⟩, ?_, ?_⟩)
      · rw [ecbMain_length]; exact h1.ge
      · rw [ecbMain_length]; exact hd
      · rw [ecbExtra_length]; exact h3.trans h2.ge
      · rw [ecbExtra_length]; exact h3.trans he
  case rcEcbDec =>
    obtain ⟨-, ⟨-, rfl⟩ | ⟨-, hc, rfl⟩⟩ := h
    · exact .inl rfl
    · obtain ⟨hr, hlen, hd⟩ := ecbDecFault_none hc
      obtain ⟨-, -, hl, -⟩ := (ecbDecLengthFault_eq_none_iff s).1 hlen
      refine one_output _ _ hr (by simp [regions]) rfl rfl (le_of_eq ?_) hd
      refine ecbPlain_length _ _ _ ?_
      rw [ecbCipherValues_length, Nat.mul_comm]
      exact hl
  case rcCfbEnc =>
    obtain ⟨-, ⟨-, rfl⟩ | ⟨-, hc, rfl⟩⟩ := h
    · exact .inl rfl
    · obtain ⟨hr, hd⟩ := cfbFault_none hc
      refine one_output _ _ hr (by simp [regions]) rfl rfl ?_ hd
      rw [cfbEncSegments_length, srcBytes_length]
      exact Nat.min_le_right _ _
  case rcCfbDec =>
    obtain ⟨-, ⟨-, rfl⟩ | ⟨-, hc, rfl⟩⟩ := h
    · exact .inl rfl
    · obtain ⟨hr, hd⟩ := cfbFault_none hc
      refine one_output _ _ hr (by simp [regions]) rfl rfl ?_ hd
      rw [cfbDecSegments_length, srcBytes_length]
      exact Nat.min_le_right _ _
  case rcModexpE =>
    obtain ⟨hc, rfl⟩ := h
    obtain ⟨-, -, hr, hd⟩ := modexpFault_none hc
    exact one_output _ _ hr (by simp [regions]) rfl rfl (by simp) hd
  case rcModexpD =>
    obtain ⟨hc, rfl⟩ := h
    obtain ⟨-, -, hr, hd⟩ := modexpFault_none hc
    exact one_output _ _ hr (by simp [regions]) rfl rfl (by simp) hd

/-! ### What the other steps do -/

/-- The engine's step on a word: its command, or ILLEGAL_COMMAND (40_common.md R145, R150). -/
theorem performWord_cases {w : Word} {s t : State} (h : performWord w s = .next t) :
    (∃ i, decode w = .ok i ∧ exec i s = .next t) ∨
      ((∀ i, decode w ≠ .ok i) ∧ t = takeFault (illegalCommand w) s) := by
  unfold performWord at h
  cases hd : decode w with
  | ok i => rw [hd] at h; exact .inl ⟨i, rfl, h⟩
  | error e =>
    rw [hd] at h
    exact .inr ⟨fun i hi => (by cases hi), (Host.Outcome.next.inj h).symm⟩

/-- What a write to the register block does (20_memory.md R82; 40_common.md R141 to R143). -/
theorem writeRegOffset_cases (off : Nat) (v : Word) (s : State) :
    (Reg.ofOffset off = some .ctrl ∧ writeRegOffset off v s = writeCtrl v s) ∨
    (Reg.ofOffset off = some .irqStatus ∧ writeRegOffset off v s = writeIrqStatus v s) ∨
    (s.busy = true ∧ writeRegOffset off v s = setBusyWrite s) ∨
    (s.busy = false ∧ Reg.ofOffset off = some .cmd ∧ writeRegOffset off v s = accept v s) ∨
    (s.busy = false ∧ (∃ r, Reg.ofOffset off = some r ∧ writeRegOffset off v s = storeReg r v s)) ∨
    (s.busy = false ∧ Reg.ofOffset off = none ∧ writeRegOffset off v s = s) := by
  unfold writeRegOffset
  cases hb : s.busy <;> split <;> simp_all

/-- What a transaction leaves of the state (20_memory.md R81 to R84). -/
theorem transact_cases (tr : Transaction) (s : State) :
    (transact tr s).2 = s ∨
    (s.busy = true ∧ (transact tr s).2 = setBufBlocked s) ∨
    (s.busy = false ∧ ∃ a size v, a + size ≤ s.params.memBytes ∧
      (transact tr s).2 = s.memWrite a (leBytes size v)) ∨
    ∃ off v, tr = .write off 4 v ∧ (transact tr s).2 = writeRegOffset off (word v) s := by
  cases tr with
  | read off size =>
    cases hz : sizeLegal size with
    | false => exact .inl (by simp [transact, hz])
    | true =>
      cases ha : areaOf s.params off size with
      | regBlock o => exact .inl (by simp only [transact, hz, ha, if_true]; split <;> rfl)
      | outside => exact .inl (by simp [transact, hz, ha])
      | buffer a =>
        cases hb : s.busy with
        | true => exact .inr (.inl ⟨rfl, by simp [transact, hz, ha, hb]⟩)
        | false =>
          refine .inl ?_
          simp only [transact, hz, ha, hb, if_true, Bool.false_eq_true, if_false]
          split <;> rfl
  | write off size v =>
    cases hz : sizeLegal size with
    | false => exact .inl (by simp [transact, hz])
    | true =>
      cases ha : areaOf s.params off size with
      | outside => exact .inl (by simp [transact, hz, ha])
      | regBlock o =>
        cases hr : regAccessLegal o size with
        | false => exact .inl (by simp [transact, hz, ha, hr])
        | true =>
          refine .inr (.inr (.inr ⟨o, v, ?_, by simp [transact, hz, ha, hr]⟩))
          simp only [regAccessLegal, Bool.and_eq_true, beq_iff_eq] at hr
          simp only [areaOf] at ha
          split_ifs at ha
          rw [Area.regBlock.inj ha, hr.1]
      | buffer a =>
        cases hb : s.busy with
        | true => exact .inr (.inl ⟨rfl, by simp [transact, hz, ha, hb]⟩)
        | false =>
          by_cases hm : a % size = 0
          · refine .inr (.inr (.inl ⟨rfl, a, size, v % 2 ^ (8 * size), ?_, by simp only [transact, hz, ha, hb, hm,
              if_true, Bool.false_eq_true, if_false]⟩))
            simp only [areaOf] at ha
            split_ifs at ha
            have := Area.buffer.inj ha
            omega
          · exact .inl (by simp [transact, hz, ha, hb, hm])

/-- One step, by the event it takes (40_common.md R140, R144; log entries 1 to 3). -/
theorem step_cases {s t : State} (h : step s = .next t) :
    (∃ w base, s.phase = .busy w ∧ performWord w base = .next t ∧
      ((s.script = [] ∧ base = s) ∨ ∃ rest, s.script = .engine :: rest ∧ base = { s with script := rest })) ∨
    (s.phase = .idle ∧
      ((s.script = [] ∧ t = s) ∨ ∃ rest, s.script = .engine :: rest ∧ t = { s with script := rest })) ∨
    (∃ tr rest, s.script = .bus tr :: rest ∧ t = hostStep tr { s with script := rest }) ∨
    (∃ rest, s.script = .wait :: rest ∧ t = pollStep { s with script := rest }) ∨
    (∃ rest, s.script = .hardReset :: rest ∧ t = hardReset { s with script := rest }) := by
  unfold step at h
  cases hs : s.script with
  | nil =>
    rw [hs] at h
    simp only [engineTurn] at h
    cases hp : s.phase with
    | idle => rw [hp] at h; exact .inr (.inl ⟨rfl, .inl ⟨rfl, (Host.Outcome.next.inj h).symm⟩⟩)
    | busy w => rw [hp] at h; exact .inl ⟨w, s, rfl, h, .inl ⟨rfl, rfl⟩⟩
  | cons e rest =>
    rw [hs] at h
    cases e with
    | bus tr => exact .inr (.inr (.inl ⟨tr, rest, rfl, (Host.Outcome.next.inj h).symm⟩))
    | wait => exact .inr (.inr (.inr (.inl ⟨rest, rfl, (Host.Outcome.next.inj h).symm⟩)))
    | hardReset => exact .inr (.inr (.inr (.inr ⟨rest, rfl, (Host.Outcome.next.inj h).symm⟩)))
    | engine =>
      simp only [runEvent, engineTurn] at h
      cases hp : s.phase with
      | idle =>
        rw [hp] at h
        exact .inr (.inl ⟨rfl, .inr ⟨rest, rfl, (Host.Outcome.next.inj h).symm⟩⟩)
      | busy w => rw [hp] at h; exact .inl ⟨w, _, rfl, h, .inr ⟨rest, rfl, rfl⟩⟩

/-! ### Memory under a reset -/

theorem drawRegions_wf {s : State} (h : s.mem.wf) (rs : List Region) : (drawRegions rs s).mem.wf := by
  induction rs generalizing s with
  | nil => exact h
  | cons r rs ih => exact ih (drawRegion_wf h r.addr r.len)

theorem drawRegions_below {s : State} (h : s.mem.Below s.params.memBytes) (rs : List Region) :
    (drawRegions rs s).mem.Below s.params.memBytes := by
  induction rs generalizing s with
  | nil => exact h
  | cons r rs ih => exact ih (s := s.drawRegion r.addr r.len) (drawRegion_below h r.addr r.len)

theorem abortMemory_wf {s : State} (h : s.mem.wf) : (abortMemory s).mem.wf := by
  unfold abortMemory
  split
  · exact h
  · split
    · exact drawRegions_wf h _
    · exact h

theorem softReset_wf {s : State} (h : s.mem.wf) : (softReset s).mem.wf := abortMemory_wf h

theorem hardReset_wf (s : State) : (hardReset s).mem.wf := List.Pairwise.nil

/-- The reset state's memory is in canonical form. -/
theorem reset_mem_wf : State.reset.mem.wf := List.Pairwise.nil

end Sys2Proof.Machine
end

