-- ==== Sys2Proof/Laws/PerInstr.lean ====
section
/-! SUPPORT. The per-instruction family RoundTrip: a command is well formed, and decoding its word gives
it back (30_encoding.md R111, R113). -/

namespace Sys2Proof.Laws.RoundTrip

/-- The command's fields are legal, and its word decodes to it. -/
def Statement (i : Instr) : Prop := i.wf = true ∧ decode (encode i) = .ok i

theorem nop : Statement .nop := ⟨rfl, rfl⟩
theorem frReadChunk : Statement .frReadChunk := ⟨rfl, rfl⟩
theorem frParseDoc : Statement .frParseDoc := ⟨rfl, rfl⟩
theorem frWriteChunkStored : Statement .frWriteChunkStored := ⟨rfl, rfl⟩
theorem frWriteChunkRecomp : Statement .frWriteChunkRecomp := ⟨rfl, rfl⟩
theorem frWriteChunkPlace : Statement .frWriteChunkPlace := ⟨rfl, rfl⟩
theorem frCrcChunk : Statement .frCrcChunk := ⟨rfl, rfl⟩
theorem frWriteSig : Statement .frWriteSig := ⟨rfl, rfl⟩
theorem sfDefilter : Statement .sfDefilter := ⟨rfl, rfl⟩
theorem sfRefilterNone : Statement .sfRefilterNone := ⟨rfl, rfl⟩
theorem rcLoadKey : Statement .rcLoadKey := ⟨rfl, rfl⟩
theorem rcEcbEnc : Statement .rcEcbEnc := ⟨rfl, rfl⟩
theorem rcEcbDec : Statement .rcEcbDec := ⟨rfl, rfl⟩
theorem rcCfbEnc : Statement .rcCfbEnc := ⟨rfl, rfl⟩
theorem rcCfbDec : Statement .rcCfbDec := ⟨rfl, rfl⟩
theorem rcModexpE : Statement .rcModexpE := ⟨rfl, rfl⟩
theorem rcModexpD : Statement .rcModexpD := ⟨rfl, rfl⟩
theorem rcClearKey : Statement .rcClearKey := ⟨rfl, rfl⟩

end Sys2Proof.Laws.RoundTrip
end

