-- ==== Sys2Proof/Tests/Slice0.lean ====
section
/-! SUPPORT. Tests, with expected results from spec/95_test_vectors.md or by hand from the rules, and for
every statement with hypotheses a witness that meets them (`witness_<statement>`). -/

namespace Sys2Proof.Tests

set_option Elab.async false

open Sys2Proof Sys2Proof.Machine

/-! ### Small states -/

/-- A device of the smallest size right after reset. -/
def dev : State := State.resetOf { memBytes := 4096, kmaxBits := 1024 }

/-- Bytes from their numbers. -/
def bytes (l : List Nat) : Bytes := l.map (BitVec.ofNat 8)

/-- `s` with values in RW registers. -/
def setRegs (l : List (Reg × Nat)) (s : State) : State :=
  l.foldl (fun s p => storeReg p.1 (BitVec.ofNat 32 p.2) s) s

/-- `s` with SRC and DST. -/
def srcDst (sa sl da dl : Nat) (s : State) : State :=
  setRegs [(.srcAddr, sa), (.srcLen, sl), (.dstAddr, da), (.dstLen, dl)] s

/-- `s` with a schedule. -/
def withScript (l : List Event) (s : State) : State := { s with script := l }

/-- `s` with a command word in progress. -/
def busyWith (w : Word) (s : State) : State := { s with phase := .busy w, lastCmd := w }

/-- The state that an outcome answers, `s` itself if it answers none. -/
def stateOf (o : Host.Outcome State Fault Refusal) (s : State) : State :=
  match o with
  | .next t => t
  | .fault _ => s
  | .refused _ => s

/-- The state after a command. -/
def after (i : Instr) (s : State) : State := stateOf (exec i s) s

/-- The state after a step. -/
def stepped (s : State) : State := stateOf (step s) s

theorem exec_after (i : Instr) (s : State) : exec i s = .next (after i s) := by
  obtain ⟨t, h⟩ := exec_next i s
  simp [after, stateOf, h]

theorem legal {i : Instr} {s : State} (h : regionFault i s = none) : RegionsLegal i s :=
  (regionFault_eq_none_iff i s).1 h

/-- The key K2 of spec/95_test_vectors.md, loaded: N = 503 * 509, B = 3. -/
def keyed : State :=
  { dev with
    key := { kn := 256027, ke := 17, kd := 15001, kb := 3 }
    status := { dev.status with keyValid := true } }

/-- A small consistent key that is not narrow: N = 7 * 37, e * d = 145 = 1 mod 36, B = 2. -/
def keyed2 : State :=
  { dev with
    key := { kn := 259, ke := 5, kd := 29, kb := 2 }
    status := { dev.status with keyValid := true } }

def ihdrData : Bytes := bytes [0, 0, 0, 1, 0, 0, 0, 1, 8, 0, 0, 0, 0]
def idatData : Bytes := bytes [0x78, 0x9C, 0x63, 0x60, 0, 0, 0, 2, 0, 1]
def ihdr : DocChunk := { type := tagIHDR, data := ihdrData, crc := 0x3A7E9B55#32 }
def idat : DocChunk := { type := tagIDAT, data := idatData, crc := 0x48AFA471#32 }
def iend : DocChunk := { type := tagIEND, data := [], crc := 0xAE426082#32 }

/-- PNG67 of spec/95_test_vectors.md, written out. -/
def png67 : Bytes :=
  bytes [0x89, 0x50, 0x4E, 0x47, 0x0D, 0x0A, 0x1A, 0x0A] ++
  bytes [0, 0, 0, 0x0D, 0x49, 0x48, 0x44, 0x52, 0, 0, 0, 1, 0, 0, 0, 1, 8, 0, 0, 0, 0,
    0x3A, 0x7E, 0x9B, 0x55] ++
  bytes [0, 0, 0, 0x0A, 0x49, 0x44, 0x41, 0x54, 0x78, 0x9C, 0x63, 0x60, 0, 0, 0, 2, 0, 1,
    0x48, 0xAF, 0xA4, 0x71] ++
  bytes [0, 0, 0, 0, 0x49, 0x45, 0x4E, 0x44, 0xAE, 0x42, 0x60, 0x82]

/-- `s` holding a stream at 0, SRC on it, and DST = (0x100, cap). -/
def streamAt0 (stream : Bytes) (cap : Nat) : State :=
  srcDst 0 stream.length 0x100 cap (dev.memWrite 0 stream)

/-! ### Words and their checks (30_encoding.md R110, R113, R115) -/

theorem test_decode_nop : decode 0b00000000000000000000000000000000#32 = .ok .nop := rfl
theorem test_decode_read_chunk : decode 0b00000000000000000000000000000001#32 = .ok .frReadChunk := rfl
theorem test_decode_parse_doc : decode 0b00000000000000000000000000000010#32 = .ok .frParseDoc := rfl
theorem test_decode_write_stored :
    decode 0b00000000000000000000000000000011#32 = .ok .frWriteChunkStored := rfl
theorem test_decode_write_recomp :
    decode 0b00000000000000000000000100000011#32 = .ok .frWriteChunkRecomp := rfl
theorem test_decode_write_place :
    decode 0b00000000000000000000001000000011#32 = .ok .frWriteChunkPlace := rfl
theorem test_decode_crc_chunk : decode 0b00000000000000000000000000000100#32 = .ok .frCrcChunk := rfl
theorem test_decode_write_sig : decode 0b00000000000000000000000000000101#32 = .ok .frWriteSig := rfl
theorem test_decode_defilter : decode 0b00000000000000000000000000010000#32 = .ok .sfDefilter := rfl
theorem test_decode_refilter :
    decode 0b00000000000000000000000000010001#32 = .ok .sfRefilterNone := rfl
theorem test_decode_load_key : decode 0b00000000000000000000000000100000#32 = .ok .rcLoadKey := rfl
theorem test_decode_ecb_enc : decode 0b00000000000000000000000000100001#32 = .ok .rcEcbEnc := rfl
theorem test_decode_ecb_dec : decode 0b00000000000000000000000000100010#32 = .ok .rcEcbDec := rfl
theorem test_decode_cfb_enc : decode 0b00000000000000000000000000100011#32 = .ok .rcCfbEnc := rfl
theorem test_decode_cfb_dec : decode 0b00000000000000000000000000100100#32 = .ok .rcCfbDec := rfl
theorem test_decode_modexp_e : decode 0b00000000000000000000000000100101#32 = .ok .rcModexpE := rfl
theorem test_decode_modexp_d : decode 0b00000000000000000000000100100101#32 = .ok .rcModexpD := rfl
theorem test_decode_clear_key : decode 0b00000000000000000000000000100110#32 = .ok .rcClearKey := rfl

/-- One ill-formed term for each check. -/
theorem test_wf_refuses_rsv : ({ op := 0x01#8, mode := 0#2, rsv := 1#22 } : CmdFields).wf = false := rfl
theorem test_wf_refuses_op : ({ op := 0x06#8, mode := 0#2, rsv := 0#22 } : CmdFields).wf = false := rfl
theorem test_wf_refuses_mode_of_3 :
    ({ op := 0x03#8, mode := 3#2, rsv := 0#22 } : CmdFields).wf = false := rfl
theorem test_wf_refuses_mode_of_25 :
    ({ op := 0x25#8, mode := 2#2, rsv := 0#22 } : CmdFields).wf = false := rfl
theorem test_wf_refuses_mode_of_others :
    ({ op := 0x10#8, mode := 1#2, rsv := 0#22 } : CmdFields).wf = false := rfl
theorem test_wf_accepts : ({ op := 0x03#8, mode := 2#2, rsv := 0#22 } : CmdFields).wf = true := rfl

theorem test_decode_rejects_rsv : decode 0x00000400#32 = .error (.reservedBits 1#22) := rfl
theorem test_decode_rejects_op : decode 0x00000006#32 = .error (.unlistedOp 0x06#8) := rfl
theorem test_decode_rejects_mode : decode 0x00000303#32 = .error (.unlistedMode 0x03#8 3#2) := rfl

theorem test_table_word_short : decodeTableWord 8 0x21 = some .rcEcbEnc := rfl
theorem test_table_word_none : decodeTableWord 32 0x206 = none := rfl

theorem test_reset_mem_wf : State.reset.mem.wf := reset_mem_wf

/-! ### The commands -/

/-- V-F2. -/
theorem test_read_chunk :
    let t := after .frReadChunk (setRegs [(.cursor, 8)] (streamAt0 png67 0))
    t.framer = { dev.framer with
      cursor := 33#32, chLen := 13#32, chType := 0x49484452#32, chCrc := 0x3A7E9B55#32,
      chCrcCalc := 0x3A7E9B55#32, chDataAddr := 16#32 } ∧ t.status.crcMatch = true := by
  decide +kernel

/-- V-F24: the cursor at the end of the stream. -/
theorem test_read_chunk_truncated :
    let t := after .frReadChunk (setRegs [(.cursor, 67)] (streamAt0 png67 0))
    t.err = { code := 0x08#32, index := 0#32, offset := 67#32, expected := 4#32, actual := 0#32 } ∧
      t.framer.cursor = 67#32 := by
  decide +kernel

/-- V-F11: registers. -/
theorem test_parse_doc :
    let t := after .frParseDoc (streamAt0 (png67 ++ bytes [0xDE, 0xAD]) 64)
    t.framer.docNchunks = 3#32 ∧ t.framer.docTrailOff = 67#32 ∧ t.framer.docTrailLen = 2#32 ∧
      t.framer.docFlags = 0xB3#32 ∧ t.out.len = 48#32 ∧
      t.memRead 0x110 16 = bytes [0x21, 0, 0, 0, 0x0A, 0, 0, 0, 0x49, 0x44, 0x41, 0x54, 0x71, 0xA4,
        0xAF, 0x48] := by
  decide +kernel

/-- V-F20. -/
theorem test_parse_doc_overflow :
    (after .frParseDoc (streamAt0 png67 32)).err =
      { code := 0x0106#32, index := 2#32, offset := 55#32, expected := 48#32, actual := 32#32 } := by
  decide +kernel

/-- V-F5. -/
theorem test_write_stored :
    let s := setRegs [(.chLen, 13), (.chType, 0x49484452), (.chCrc, 0x3A7E9B55)]
      (srcDst 16 0 0x200 25 (dev.memWrite 0 png67))
    (after .frWriteChunkStored s).memRead 0x200 25 = (png67.drop 8).take 25 := by
  decide +kernel

/-- V-F6. -/
theorem test_write_recomp :
    let s := setRegs [(.chType, 0x49454E44), (.chCrc, 0x12345678)] (srcDst 0 0 0x200 12 dev)
    (after .frWriteChunkRecomp s).memRead 0x200 12 = png67.drop 55 ∧
      (after .frWriteChunkRecomp s).framer.chCrcCalc = 0xAE426082#32 := by
  decide +kernel

/-- V-F7, second run. -/
theorem test_write_place :
    let s := setRegs [(.chType, 0x49454E44), (.crcPlaceholder, 0xDEADBEEF)] (srcDst 0 0 0x200 12 dev)
    (after .frWriteChunkPlace s).memRead 0x200 12 =
      bytes [0, 0, 0, 0, 0x49, 0x45, 0x4E, 0x44, 0xDE, 0xAD, 0xBE, 0xEF] := by
  decide +kernel

/-- V-F8. -/
theorem test_crc_chunk :
    let s := setRegs [(.chType, 0x49484452), (.chLen, 13), (.chCrc, 0x2E90680F)]
      (dev.memWrite 0 (List.replicate 13 0#8))
    (after .frCrcChunk s).framer.chCrcCalc = 0x2E90680F#32 ∧
      (after .frCrcChunk s).status.crcMatch = true := by
  decide +kernel

/-- V-F9 and V-F27. -/
theorem test_write_sig :
    (after .frWriteSig (srcDst 0 0 0x200 8 dev)).memRead 0x200 8 = png67.take 8 ∧
      (after .frWriteSig (srcDst 0 0 0x200 7 dev)).err.code = 0x0106#32 := by
  decide +kernel

/-- `s` with an image's geometry and the stream at 0. -/
def image (w h bpp : Nat) (stream : Bytes) (cap : Nat) : State :=
  setRegs [(.width, w), (.height, h), (.bpp, bpp)] (streamAt0 stream cap)

/-- V-S10 (Paeth with BPP 2). -/
theorem test_defilter :
    (after .sfDefilter (image 2 2 2 (bytes [0, 1, 2, 3, 4, 4, 1, 1, 1, 1]) 8)).memRead 0x100 8 =
      bytes [1, 2, 3, 4, 2, 3, 4, 5] := by
  decide +kernel

/-- V-S9 (the Average sum is not reduced). -/
theorem test_defilter_average :
    (after .sfDefilter (image 2 2 1 (bytes [0, 0xFF, 0xFF, 3, 0, 0]) 4)).memRead 0x100 4 =
      bytes [0xFF, 0xFF, 0x7F, 0xBF] := by
  decide +kernel

/-- V-S15. -/
theorem test_refilter :
    (after .sfRefilterNone (image 3 2 1 (bytes [9, 8, 7, 6, 5, 4]) 8)).memRead 0x100 8 =
      bytes [0, 9, 8, 7, 0, 6, 5, 4] := by
  decide +kernel

/-- The key image of K2. -/
def keyImage : State :=
  setRegs [(.keyBits, 18), (.keyAddr, 0x200)]
    (dev.memWrite 0x200 (bytes [3, 0xE8, 0x1B, 0, 0, 0x11, 0, 0x3A, 0x99]))

theorem test_load_key : (after .rcLoadKey keyImage).key = keyed.key := by decide +kernel

theorem test_load_key_bad_bits_clears :
    let t := after .rcLoadKey (setRegs [(.keyBits, 8)] keyed)
    t.err.code = 0x0202#32 ∧ t.key = KeyRegs.zero ∧ t.status.keyValid = false := by
  decide +kernel

theorem test_clear_key : (after .rcClearKey keyed).key = KeyRegs.zero := by decide +kernel

/-- V-R4: "30" encrypts to main 03 43, overflow B1. -/
theorem test_ecb_enc :
    let s := setRegs [(.extAddr, 0x180), (.extLen, 1)]
      (srcDst 0x10 1 0x100 2 (keyed.memWrite 0x10 (bytes [0x30])))
    (after .rcEcbEnc s).memRead 0x100 2 = bytes [0x03, 0x43] ∧
      (after .rcEcbEnc s).memRead 0x180 1 = bytes [0xB1] := by
  decide +kernel

/-- The inverse of V-R4. -/
theorem test_ecb_dec :
    let s := setRegs [(.extAddr, 0x180), (.extLen, 1), (.plainLen, 1)]
      (srcDst 0x10 2 0x100 1
        ((keyed.memWrite 0x10 (bytes [0x03, 0x43])).memWrite 0x180 (bytes [0xB1])))
    (after .rcEcbDec s).memRead 0x100 1 = bytes [0x30] := by
  decide +kernel

/-- V-R8: IV 01 02 03, "HELLO!!". -/
theorem test_cfb_enc :
    let s := setRegs [(.ivAddr, 0)] (srcDst 0x10 7 0x100 7
      ((keyed.memWrite 0 (bytes [1, 2, 3])).memWrite 0x10
        (bytes [0x48, 0x45, 0x4C, 0x4C, 0x4F, 0x21, 0x21])))
    (after .rcCfbEnc s).memRead 0x100 7 = bytes [0x4B, 0x08, 0x87, 0x4C, 0x36, 0xC2, 0x23] := by
  decide +kernel

/-- V-R8, the other way. -/
theorem test_cfb_dec :
    let s := setRegs [(.ivAddr, 0)] (srcDst 0x10 7 0x100 7
      ((keyed.memWrite 0 (bytes [1, 2, 3])).memWrite 0x10
        (bytes [0x4B, 0x08, 0x87, 0x4C, 0x36, 0xC2, 0x23])))
    (after .rcCfbDec s).memRead 0x100 7 = bytes [0x48, 0x45, 0x4C, 0x4C, 0x4F, 0x21, 0x21] := by
  decide +kernel

/-- V-R15 and V-R16: x = 0; and a block of at least N with the narrow key K3 (34^5 mod 221 = 34). -/
theorem test_modexp_e :
    (after .rcModexpE (srcDst 0 3 0x100 3 (keyed.memWrite 0 (bytes [0, 0, 0])))).memRead 0x100 3 =
        bytes [0, 0, 0] ∧
      (let s := srcDst 0 1 0x100 2
        ({ keyed with key := { kn := 221, ke := 5, kd := 77, kb := 2 } }.memWrite 0 (bytes [0xFF]))
       (after .rcModexpE s).memRead 0x100 2 = bytes [0, 34] ∧
        (after .rcModexpE s).status.blockGeN = true) := by
  decide +kernel

/-- With N = 259 and d = 29: 2^29 mod 259 = 172 (2^9 = -6, 2^27 = -216 = 43, 4 * 43 = 172). -/
theorem test_modexp_d :
    (after .rcModexpD (srcDst 0 1 0x100 2 (keyed2.memWrite 0 (bytes [2])))).memRead 0x100 2 =
      bytes [0, 172] := by
  decide +kernel

theorem test_nop : (after .nop (srcDst 1 2 3 4 keyed)).out = { len := 0#32, extLen := 0#32 } := by
  decide +kernel

/-! ### The device around the commands -/

/-- P6's hazard, second execution: the write arrives while Busy, is dropped, and leaves BUSY_WRITE. -/
theorem test_write_while_busy :
    let s := withScript [.bus (.write 0x060 4 5)] (busyWith 1#32 (streamAt0 (png67.drop 55) 0))
    (stepped s).framer.cursor = 0#32 ∧ (stepped s).status.busyWrite = true ∧
      (stepped (stepped s)).framer.cursor = 12#32 ∧ (stepped (stepped s)).statusWord = 0x112#32 := by
  decide +kernel

/-- 20_memory.md R92: a 4-byte host read of big-endian bytes. -/
theorem test_host_read_little_endian :
    (stepped (withScript [.bus (.read 0x01000008 4)] (dev.memWrite 0 png67))).answers =
      [.value 0x0D000000] := by
  decide +kernel

/-- P5, statement 2: an illegal word. -/
theorem test_illegal_word :
    (stepped (dev.withFetchWord 32 6)).err =
      { code := 1#32, index := 0#32, offset := 0#32, expected := 0#32, actual := 6#32 } := by
  decide +kernel

/-- P5, statements 15 to 18: a soft reset keeps memory. -/
theorem test_soft_reset :
    let s := withScript [.bus (.write 0x02C 4 2)] (keyImage.memWrite 0 png67)
    (stepped s).memRead 0 67 = png67 ∧ (stepped s).cipher.keyAddr = 0#32 := by
  decide +kernel

/-- `WR SRC_ADDR, 5` and `CMD NOP` as bus writes (30_encoding.md R117). -/
theorem test_program_events :
    programEvents [.wr .srcAddr 5, .run .nop] =
      [.bus (.write 0x040 4 5), .bus (.write 0x010 4 0), .wait] := by
  decide +kernel

/-- P6 of spec/95_test_vectors.md: the engine's step before statement 5 leaves CURSOR 5 and STATUS 0x12,
and the same program without that turn is a schedule too. -/
theorem test_program_schedules :
    let p : List Stmt := [.cmd .frReadChunk, .wr .cursor 5, .wait]
    let l : List Event := [cmdEvent .frReadChunk, .engine, wrEvent .cursor 5, .wait]
    let s := withScript l (streamAt0 (png67.drop 55) 0)
    let u := stepped (stepped (stepped (stepped s)))
    IsScheduleOf l p ∧ IsScheduleOf (programEvents p) p ∧ u.framer.cursor = 5#32 ∧
      u.statusWord = 0x12#32 := by
  unfold IsScheduleOf
  decide +kernel

/-! ### Witnesses: the statements about encoding, issue and the bus -/

theorem step_stepped {s : State} (h : ∃ t, step s = .next t) : step s = .next (stepped s) := by
  obtain ⟨t, h⟩ := h
  simp [stepped, stateOf, h]

theorem witness_DecodeIsExactMatch : ∀ i : Instr, encode i ≠ 0x00000006#32 := by
  intro i; cases i <;> decide

/-- A word of each of the three kinds, the last with only the highest reserved bit. -/
theorem witness_IllegalWordsAreAcceptedAndFault :
    (∀ n ∈ [0x00000006, 0x000000FF, 0x00000303, 0x00000110, 0x00000400, 0x80000000],
      (CmdFields.ofWord (BitVec.ofNat 32 n)).wf = false) ∧
    ∀ w : Word, (withScript [.bus (.write 0x010 4 w.toNat), .engine] dev).phase = .idle ∧
      (withScript [.bus (.write 0x010 4 w.toNat), .engine] dev).script =
        .bus (.write 0x010 4 w.toNat) :: .engine :: [] :=
  ⟨by decide +kernel, fun _ => ⟨rfl, rfl⟩⟩

theorem witness_StepRunsTheDecodedCommand :
    decode 0x00000125#32 = .ok .rcModexpD ∧
    (busyWith 0x00000125#32 dev).phase = .busy 0x00000125#32 ∧
    (busyWith 0x00000125#32 dev).script = [] ∧
    (withScript [.engine, .wait] (busyWith 0x00000125#32 dev)).script = [.engine, .wait] ∧
    0x125 < 2 ^ 32 ∧ decode (BitVec.ofNat 32 0x125) = .ok .rcModexpD :=
  ⟨rfl, rfl, rfl, rfl, by decide, rfl⟩

theorem witness_CmdWriteIsAccepted :
    (withScript [.bus (.write 0x010 4 0xFFFFFFFF)] dev).phase = .idle := rfl

/-- The first, the last, a reserved, a read-only, an RW offset and CMD; then, Busy and Idle, CTRL without
and with a soft reset, IRQ_STATUS, a read. -/
theorem witness_BusyRegisterWritesAreDropped :
    (∀ off ∈ [0x000, 0x010, 0x014, 0x028, 0x034, 0x040, 0xFFC],
      off % 4 = 0 ∧ off < 0x1000 ∧ off ≠ 0x02C ∧ off ≠ 0x030) ∧
    (busyWith 1#32 dev).phase = .busy 1#32 ∧ 0xFFFFFFFD / 2 % 2 = 0 ∧ 5 / 2 % 2 = 0 ∧
    2 / 2 % 2 = 1 ∧
    (∀ s ∈ [dev, busyWith 1#32 dev],
      ∀ t ∈ [Transaction.write 0x02C 4 5, .write 0x02C 4 2, .write 0x030 4 1],
        (withScript [.bus t] s).script = [.bus t]) ∧
    (withScript [.bus (.read Reg.keyU.offset 4)] (busyWith 1#32 dev)).script =
      [.bus (.read Reg.keyU.offset 4)] := by
  decide +kernel

/-- The first and the last byte of the buffer, its last word, and a misaligned one. -/
theorem witness_BusyBlocksTheBuffer :
    ∀ p ∈ [(0x01000000, 1), (0x01000FFF, 1), (0x01000FFE, 2), (0x01000FFC, 4), (0x01000FFB, 4)],
      (p.2 = 1 ∨ p.2 = 2 ∨ p.2 = 4) ∧ 0x01000000 ≤ p.1 ∧
      p.1 + p.2 ≤ 0x01000000 + (busyWith 1#32 dev).params.memBytes ∧
      (busyWith 1#32 dev).phase = .busy 1#32 := by
  decide +kernel

theorem witness_HostReadsChangeNothing :
    (withScript [.bus (.read 0x01000FFC 4)] (busyWith 1#32 dev)).script =
      [.bus (.read 0x01000FFC 4)] ∧
    step (withScript [.bus (.read 0x01000FFC 4)] (busyWith 1#32 dev)) =
      .next (stepped (withScript [.bus (.read 0x01000FFC 4)] (busyWith 1#32 dev))) ∧
    (withScript [.bus (.read 0x014 4)] dev).phase = .idle ∧
    (setBufBlocked dev).status.bufBlocked = true :=
  ⟨rfl, step_stepped ⟨_, rfl⟩, rfl, rfl⟩

/-- One transaction for each clause of the list (between the windows, past the buffer, a narrow and a
misaligned register access, a misaligned buffer access) and, while Busy, an aligned one; each answers
BusError; and the aligned last word while Idle, which does not. -/
theorem witness_BusErrorIsNoFault :
    (∀ p ∈ [(0x0FFE, 4), (0x1000, 4), (0x00FFFFFE, 4), (0x01000FFE, 4), (0x01001000, 1), (0x014, 2),
        (0x016, 4), (0x01000001, 2)],
      (p.2 = 1 ∨ p.2 = 2 ∨ p.2 = 4) ∧
      (stepped (withScript [.bus (.read p.1 p.2)] dev)).answers = .busError :: dev.answers ∧
      (stepped (withScript [.bus (.write p.1 p.2 7)] dev)).answers = .busError :: dev.answers) ∧
    (stepped (withScript [.bus (.read 0x01000FFC 4)] (busyWith 1#32 dev))).answers = [.busError] ∧
    (stepped (withScript [.bus (.write 0x01000FFC 4 7)] dev)).answers = [.ok] ∧
    (∃ u, step (withScript [.bus (.read 0x1000 4)] dev) = .next u) := by
  refine ⟨by decide +kernel, by decide +kernel, by decide +kernel, ⟨_, rfl⟩⟩

theorem witness_BufferAccessIsLittleEndian :
    dev.phase = .idle ∧
    (∀ p ∈ [(0, 4), (4095, 1), (4094, 2), (4092, 4)],
      (p.2 = 1 ∨ p.2 = 2 ∨ p.2 = 4) ∧ p.1 + p.2 ≤ dev.params.memBytes ∧ p.1 % p.2 = 0) ∧
    ∀ p ∈ [(1, 2), (4093, 2), (2, 4), (4091, 4)],
      (p.2 = 1 ∨ p.2 = 2 ∨ p.2 = 4) ∧ p.1 + p.2 ≤ dev.params.memBytes ∧ p.1 % p.2 ≠ 0 := by
  decide +kernel

/-- An RW register; an ignored RO and reserved offset; a reserved one to read; illegal accesses up to the
block's end. -/
theorem witness_RegisterAccess :
    dev.phase = .idle ∧ Reg.plainLen.isRW = true ∧
    (∀ off ∈ [0x000, 0x00C, 0x070, 0xFFC],
      off % 4 = 0 ∧ off < 0x1000 ∧ off ≠ 0x010 ∧ off ≠ 0x02C ∧ off ≠ 0x030 ∧
        ∀ r ∈ Reg.all, r.isRW = true → r.offset ≠ off) ∧
    (∀ off ∈ [0x00C, 0x0C8, 0xFFC], off % 4 = 0 ∧ off < 0x1000 ∧ ∀ r ∈ Reg.all, r.offset ≠ off) ∧
    (∀ r : Reg, r ∈ Reg.all) ∧
    ∀ p ∈ [(0x002, 4), (0xFFC, 2), (0xFFF, 1), (0xFFE, 2)],
      p.1 + p.2 ≤ 0x1000 ∧ ¬ (p.2 = 4 ∧ p.1 % 4 = 0) ∧ (p.2 = 1 ∨ p.2 = 2 ∨ p.2 = 4) := by
  refine ⟨rfl, rfl, by decide +kernel, by decide +kernel, fun r => ?_, by decide +kernel⟩
  cases r <;> decide

theorem witness_InterruptIsALevel :
    1 / 2 % 2 = 0 ∧
    (withScript [.bus (.write 0x02C 4 1)] (after .nop dev)).script = [.bus (.write 0x02C 4 1)] :=
  ⟨rfl, rfl⟩

/-- DONE_PEND falls by ACK, by a soft reset and by a hardware reset, and rises by a completion. -/
theorem witness_DonePendLifetime :
    (∀ e ∈ [Event.bus (.write 0x030 4 1), .bus (.write 0x02C 4 2), .hardReset],
      (withScript [e] (after .nop dev)).donePend = true ∧
      (stepped (withScript [e] (after .nop dev))).donePend = false) ∧
    (∀ l ∈ [[], [Event.engine]],
      (withScript l (busyWith 0#32 dev)).donePend = false ∧
      (withScript l (busyWith 0#32 dev)).phase = .busy 0#32 ∧
      (stepped (withScript l (busyWith 0#32 dev))).donePend = true) ∧
    ∃ t, step (withScript [.engine] (busyWith 0#32 dev)) = .next t := by
  exact ⟨by decide +kernel, by decide +kernel, ⟨_, rfl⟩⟩

theorem witness_StatusWordLayout : 10 ≤ 31 := by decide

theorem witness_WaitTerminates :
    (withScript [.wait] (busyWith 0#32 dev)).script = .wait :: [] ∧
    (withScript [.wait, .engine] dev).script = .wait :: [.engine] := ⟨rfl, rfl⟩

/-! ### Witnesses: resets, invariants, whole-machine rules -/

/-- RC_ECB_ENC in progress, DST = (0x100, 4) and EXT = (0x180, 2). -/
def busyEcb : State :=
  busyWith 0x21#32 (setRegs [(.extAddr, 0x180), (.extLen, 2)] (srcDst 0x10 3 0x100 4
    (keyed.memWrite 0x10 (bytes [0x30, 0x31, 0x32]))))

theorem witness_EveryResetLeavesResetValues :
    (withScript [.hardReset] busyEcb).script = .hardReset :: [] ∧ 2 / 2 % 2 = 1 ∧ 7 / 2 % 2 = 1 ∧
    (withScript [.bus (.write 0x02C 4 7)] busyEcb).script = [.bus (.write 0x02C 4 7)] :=
  ⟨rfl, rfl, rfl, rfl⟩

/-- Addresses just outside and at both ends of the two write regions of the command in progress. -/
theorem witness_SoftResetKeepsMemory :
    busyEcb.phase = .busy 0x21#32 ∧ decode 0x21#32 = .ok .rcEcbEnc ∧
    (∀ x ∈ [0xFF, 0x104, 0x17F, 0x182], ∀ r ∈ regions .rcEcbEnc busyEcb, r.writes = true →
      ¬ (r.addr ≤ x ∧ x < r.addr + r.len)) ∧
    (∀ x ∈ [0x100, 0x103, 0x180, 0x181], ∃ r ∈ regions .rcEcbEnc busyEcb, r.writes = true ∧
      r.addr ≤ x ∧ x < r.addr + r.len ∧ x < busyEcb.params.memBytes) ∧
    dev.phase = .idle ∧ 2 / 2 % 2 = 1 := by
  refine ⟨rfl, rfl, by decide +kernel, by decide +kernel, rfl, rfl⟩

theorem witness_HardResetDrawsMemory :
    (withScript [.hardReset, .wait] busyEcb).script = .hardReset :: [.wait] := rfl

theorem keyed_keyOk : keyed.KeyOk := by
  unfold State.KeyOk; decide +kernel

theorem keyed2_keyOk : keyed2.KeyOk := by
  unfold State.KeyOk; decide +kernel

theorem witness_StepKeepsMemoryOk :
    (withScript [.bus (.write 0x01000FFC 4 7)] (dev.memWrite 0 png67)).MemoryOk ∧
    ∃ t, step (withScript [.bus (.write 0x01000FFC 4 7)] (dev.memWrite 0 png67)) = .next t := by
  refine ⟨?_, ⟨_, rfl⟩⟩
  unfold State.MemoryOk
  decide +kernel

theorem witness_StepKeepsKeyOk :
    (busyWith 0x26#32 keyed).params.Legal ∧ (busyWith 0x26#32 keyed).KeyOk ∧
    step (busyWith 0x26#32 keyed) = .next (stepped (busyWith 0x26#32 keyed)) :=
  ⟨by decide +kernel, keyed_keyOk, step_stepped ⟨_, rfl⟩⟩

theorem witness_StepKeepsStatusOk :
    (busyWith 0x21#32 dev).StatusOk ∧ (after .rcEcbEnc dev).StatusOk ∧
    step (busyWith 0x21#32 dev) = .next (stepped (busyWith 0x21#32 dev)) := by
  refine ⟨⟨?_, by decide +kernel, by decide +kernel, by decide +kernel, by decide +kernel⟩,
    ⟨?_, by decide +kernel, by decide +kernel, by decide +kernel, by decide +kernel⟩,
    step_stepped ⟨_, rfl⟩⟩
  · intro w h
    cases h
    decide +kernel
  · intro w h
    cases h

theorem witness_KeyChangesOnlyByKeyCommands :
    (∀ s ∈ [busyWith 0x26#32 keyed, withScript [.bus (.write 0x02C 4 2)] keyed,
        withScript [.hardReset] keyed],
      (stepped s).key ≠ s.key ∧ (stepped s).status.keyValid ≠ s.status.keyValid) ∧
    (∃ t, step (busyWith 0x26#32 keyed) = .next t) :=
  ⟨by decide +kernel, ⟨_, rfl⟩⟩

theorem witness_EveryCommandKeepsItsFrame :
    exec .rcLoadKey keyImage = .next (after .rcLoadKey keyImage) ∧ Instr.rcLoadKey ≠ .frReadChunk ∧
    Instr.rcLoadKey ≠ .frParseDoc ∧ Instr.rcLoadKey ≠ .rcEcbDec ∧ Instr.nop ≠ .rcLoadKey :=
  ⟨exec_after _ _, by decide, by decide, by decide, by decide⟩

theorem witness_CrcMatchWrittenOnlyByThreeCommands :
    dev.status.err = false ∧ exec .nop dev = .next (after .nop dev) ∧
    (Instr.nop ≠ .frReadChunk ∧ Instr.nop ≠ .frParseDoc ∧ Instr.nop ≠ .frCrcChunk) ∧
    (after .frReadChunk (setRegs [(.cursor, 1)] dev)).status.err = true :=
  ⟨rfl, exec_after _ _, by decide, by decide +kernel⟩

/-- A validation fault, a fault of RC_LOAD_KEY, an execution fault of FR_PARSE_DOC (V-F20). -/
theorem witness_FaultsChangeNothingElse :
    (dev.status.err = false ∧ exec .rcEcbEnc dev = .next (after .rcEcbEnc dev) ∧
      (after .rcEcbEnc dev).status.err = true) ∧
    (after .rcLoadKey keyed).status.err = true ∧
    (streamAt0 png67 32).status.err = false ∧
    (after .frParseDoc (streamAt0 png67 32)).status.err = true :=
  ⟨⟨rfl, exec_after _ _, by decide +kernel⟩, by decide +kernel, rfl, by decide +kernel⟩

/-- SRC of a refiltering, at its ends. -/
theorem witness_SourceIsNeverWritten :
    let s := image 3 2 1 (bytes [9, 8, 7, 6, 5, 4]) 8
    exec .sfRefilterNone s = .next (after .sfRefilterNone s) ∧
    srcRegion s ∈ regions .sfRefilterNone s ∧ (srcRegion s).writes = false ∧
    ∀ x ∈ [0, 5], (srcRegion s).addr ≤ x ∧ x < (srcRegion s).addr + (srcRegion s).len :=
  ⟨exec_after _ _, by decide +kernel, rfl, by decide +kernel⟩

/-- The addresses next to the output of FR_WRITE_SIG in a DST of 12 bytes. -/
theorem witness_SuccessWritesOnlyItsOutputs :
    let s := srcDst 0 0 0x200 12 dev
    s.status.err = false ∧ exec .frWriteSig s = .next (after .frWriteSig s) ∧
    (after .frWriteSig s).status.err = false ∧
    ∀ x ∈ [0x1FF, 0x208], ¬ (0x200 ≤ x ∧ x < 0x200 + (after .frWriteSig s).out.len.toNat) ∧
      ¬ (s.operand.extAddr.toNat ≤ x ∧
        x < s.operand.extAddr.toNat + (after .frWriteSig s).out.extLen.toNat) :=
  ⟨rfl, exec_after _ _, by decide +kernel, by decide +kernel⟩

/-- SRC and EXT in range, DST one byte past the end; and a key image one byte past it. -/
theorem witness_AddrRangeIsReported :
    let s := setRegs [(.extAddr, 0xFFFFFFFF), (.extLen, 0)] (srcDst 0 3 4093 4 keyed)
    (EarlyChecksPass .rcEcbEnc s ∧
      regions .rcEcbEnc s = [srcRegion s] ++ dstRegion s :: [extRegion true s] ∧
      (∀ q ∈ [srcRegion s], q.len = 0 ∨ q.addr + q.len ≤ s.params.memBytes) ∧
      (dstRegion s).len ≠ 0 ∧ s.params.memBytes < (dstRegion s).addr + (dstRegion s).len) ∧
    (let k := setRegs [(.keyBits, 9), (.keyAddr, 4091)] dev
     EarlyChecksPass .rcLoadKey k ∧ regions .rcLoadKey k = [] ++ keyRegion k :: [] ∧
      (keyRegion k).len ≠ 0 ∧ k.params.memBytes < (keyRegion k).addr + (keyRegion k).len) := by
  simp only [EarlyChecksPass]
  decide +kernel

/-- One byte of overlap, at each end, for each of the four pairs. -/
theorem witness_RegionOverlapIsReported :
    (let s := setRegs [(.bpp, 1)] (srcDst 0 6 5 8 dev)
     EarlyChecksPass .sfDefilter s ∧ (dstRegion s).overlaps (srcRegion s) = true ∧
      dstRegion s ∈ regions .sfDefilter s ∧ srcRegion s ∈ regions .sfDefilter s ∧
      (∀ r ∈ regions .sfDefilter s, r.len = 0 ∨ r.addr + r.len ≤ s.params.memBytes)) ∧
    (let s := setRegs [(.extAddr, 0x23), (.extLen, 2)] (srcDst 0x10 4 0x20 4 keyed)
     EarlyChecksPass .rcEcbDec s ∧ (dstRegion s).overlaps (extRegion false s) = true ∧
      dstRegion s ∈ regions .rcEcbDec s ∧ extRegion false s ∈ regions .rcEcbDec s ∧
      (∀ r ∈ regions .rcEcbDec s, r.len = 0 ∨ r.addr + r.len ≤ s.params.memBytes) ∧
      (dstRegion s).overlaps (srcRegion s) = false) ∧
    (let s := setRegs [(.ivAddr, 0x1E)] (srcDst 0x10 4 0x20 4 keyed)
     EarlyChecksPass .rcCfbEnc s ∧ (dstRegion s).overlaps (ivRegion s) = true ∧
      dstRegion s ∈ regions .rcCfbEnc s ∧ ivRegion s ∈ regions .rcCfbEnc s ∧
      (∀ r ∈ regions .rcCfbEnc s, r.len = 0 ∨ r.addr + r.len ≤ s.params.memBytes) ∧
      (dstRegion s).overlaps (srcRegion s) = false) ∧
    (let s := setRegs [(.extAddr, 0x13), (.extLen, 2)] (srcDst 0x10 4 0x20 4 keyed)
     EarlyChecksPass .rcEcbEnc s ∧ (extRegion true s).overlaps (srcRegion s) = true ∧
      extRegion true s ∈ regions .rcEcbEnc s ∧ srcRegion s ∈ regions .rcEcbEnc s ∧
      (∀ r ∈ regions .rcEcbEnc s, r.len = 0 ∨ r.addr + r.len ≤ s.params.memBytes) ∧
      (dstRegion s).overlaps (srcRegion s) = false ∧
      (dstRegion s).overlaps (extRegion true s) = false) := by
  simp only [EarlyChecksPass]
  decide +kernel

/-! ### Witnesses: the framer -/

theorem witness_NopResult :
    dev.phase = .idle ∧
    (withScript [.bus (.write 0x010 4 0), .engine] dev).script = [.bus (.write 0x010 4 0), .engine] :=
  ⟨rfl, rfl⟩

/-- The last record of PNG67, up to the last byte of SRC. -/
theorem witness_ReadChunkResult :
    let s := setRegs [(.cursor, 55)] (streamAt0 png67 0)
    iend.type.length = 4 ∧ RegionsLegal .frReadChunk s ∧
    s.framer.cursor.toNat + 12 + iend.data.length ≤ s.operand.srcLen.toNat ∧
    s.memRead (s.operand.srcAddr.toNat + s.framer.cursor.toNat) (12 + iend.data.length) = iend.image :=
  ⟨rfl, legal (by decide +kernel), by decide +kernel, by decide +kernel⟩

/-- The stream cut after `r` bytes of a record with 10 data bytes: r at both ends of each clause. -/
theorem witness_TruncationIsReported :
    (let s := setRegs [(.cursor, 68)] (streamAt0 png67 0)
     s.operand.srcLen.toNat < s.framer.cursor.toNat) ∧
    (∀ r ∈ [0, 3, 4, 7, 8, 17, 18, 21],
      regionFault .frReadChunk (setRegs [(.srcLen, 33 + r), (.cursor, 33)] (streamAt0 png67 0)) = none ∧
      (r < 4 ∨ (4 ≤ r ∧ r < 8) ∨ (8 ≤ r ∧ r - 8 < 10) ∨ (8 ≤ r ∧ 10 ≤ r - 8 ∧ r - 8 - 10 < 4))) ∧
    fromBE ((streamAt0 png67 0).memRead 33 4) = 10 ∧
    (∀ r ∈ [1, 3, 4, 7, 8, 17, 18, 21],
      let s := setRegs [(.srcLen, 33 + r)] (streamAt0 png67 16)
      regionFault .frParseDoc s = none ∧ 16 * 1 ≤ s.operand.dstLen.toNat ∧
      s.srcBytes = signature ++ docImage [ihdr] ++ (png67.drop 33).take r ∧
      (png67.drop 33).take r ≠ [] ∧ (png67.drop 33).length = 34 ∧
      33 + ((png67.drop 33).take r).length = s.operand.srcLen.toNat) ∧
    (∀ k ∈ [ihdr], k.type.length = 4 ∧ k.type ≠ tagIEND) := by
  decide +kernel

/-- PNG67 with two trailing bytes and a table with no byte to spare. -/
theorem witness_ParseDocFramesTheDocument :
    let s := streamAt0 (png67 ++ bytes [0xDE, 0xAD]) 48
    RegionsLegal .frParseDoc s ∧ TypesLegal ([ihdr, idat] ++ [iend]) ∧
    (∀ k ∈ [ihdr, idat], k.type ≠ tagIEND) ∧ iend.type = tagIEND ∧
    (∃ k ∈ [ihdr, idat] ++ [iend], k.type = tagIHDR) ∧
    s.srcBytes = signature ++ docImage ([ihdr, idat] ++ [iend]) ++ bytes [0xDE, 0xAD] ∧
    16 * ([ihdr, idat].length + 1) ≤ s.operand.dstLen.toNat := by
  refine ⟨legal (by decide +kernel), ?_, by decide +kernel, rfl, by decide +kernel, by decide +kernel,
    by decide +kernel⟩
  unfold TypesLegal
  decide +kernel

theorem witness_DocFlagsBits :
    [tagIHDR, tagIDAT, tagIDAT, tagIDAT, tagIEND] ≠ [] ∧
    [13, 10, 0, 1, 0].length = [tagIHDR, tagIDAT, tagIDAT, tagIDAT, tagIEND].length ∧ 8 ≤ 31 := by
  decide +kernel

/-- Seven bytes; a wrong byte 0; a wrong byte 7 (V-F12). -/
theorem witness_SignatureFaults :
    (let s := streamAt0 (png67.take 7) 0
     RegionsLegal .frParseDoc s ∧ s.operand.srcLen.toNat < 8) ∧
    (let s := streamAt0 (bytes [0x88] ++ png67.drop 1) 0
     RegionsLegal .frParseDoc s ∧ 8 ≤ s.operand.srcLen.toNat ∧
      s.readByte (s.operand.srcAddr.toNat + 0) ≠ 0x89#8) ∧
    (let s := streamAt0 (png67.take 7 ++ bytes [0x0B]) 0
     RegionsLegal .frParseDoc s ∧ 8 ≤ s.operand.srcLen.toNat ∧
      (∀ k, k < 7 → s.readByte (s.operand.srcAddr.toNat + k) =
        [0x89#8, 0x50#8, 0x4E#8, 0x47#8, 0x0D#8, 0x0A#8, 0x1A#8, 0x0A#8].getD k 0#8) ∧
      s.readByte (s.operand.srcAddr.toNat + 7) ≠ 0x0A#8) :=
  ⟨⟨legal (by decide +kernel), by decide +kernel⟩,
   ⟨legal (by decide +kernel), by decide +kernel, by decide +kernel⟩,
   ⟨legal (by decide +kernel), by decide +kernel, by decide +kernel, by decide +kernel⟩⟩

/-- No IEND (V-F14), no IHDR (V-F15), a table with room for one chunk too few by one byte (V-F20). -/
theorem witness_ParseDocExecutionFaults :
    (let s := streamAt0 (png67.take 55) 32
     RegionsLegal .frParseDoc s ∧ TypesLegal [ihdr, idat] ∧ (∀ k ∈ [ihdr, idat], k.type ≠ tagIEND) ∧
      16 * 2 ≤ s.operand.dstLen.toNat ∧ s.srcBytes = signature ++ docImage [ihdr, idat]) ∧
    (let s := streamAt0 (png67.take 8 ++ png67.drop 33) 32
     RegionsLegal .frParseDoc s ∧ (∀ k ∈ [idat], k.type ≠ tagIHDR) ∧
      16 * (1 + 1) ≤ s.operand.dstLen.toNat ∧
      s.srcBytes = signature ++ docImage ([idat] ++ [iend]) ++ []) ∧
    (let s := streamAt0 png67 47
     RegionsLegal .frParseDoc s ∧ iend.type.length = 4 ∧ 16 * 2 ≤ s.operand.dstLen.toNat ∧
      s.operand.dstLen.toNat < 16 * (2 + 1) ∧
      s.srcBytes = signature ++ docImage ([ihdr, idat] ++ [iend]) ++ []) := by
  refine ⟨⟨legal (by decide +kernel), ?_, by decide +kernel, by decide +kernel, by decide +kernel⟩,
    ⟨legal (by decide +kernel), by decide +kernel, by decide +kernel, by decide +kernel⟩,
    ⟨legal (by decide +kernel), rfl, by decide +kernel, by decide +kernel, by decide +kernel⟩⟩
  unfold TypesLegal
  decide +kernel

/-- A DST that just holds the record, and one that lacks a byte. -/
theorem witness_WriteChunkResult :
    let s := setRegs [(.chLen, 13)] (srcDst 0 0 0x200 25 dev)
    let u := setRegs [(.chLen, 13)] (srcDst 0 0 0x200 24 dev)
    (RegionsLegal .frWriteChunkStored s ∧ RegionsLegal .frWriteChunkRecomp s ∧
      RegionsLegal .frWriteChunkPlace s ∧ 12 + s.framer.chLen.toNat ≤ s.operand.dstLen.toNat) ∧
    (RegionsLegal .frWriteChunkStored u ∧ RegionsLegal .frWriteChunkRecomp u ∧
      RegionsLegal .frWriteChunkPlace u ∧ u.operand.dstLen.toNat < 12 + u.framer.chLen.toNat) :=
  ⟨⟨legal (by decide +kernel), legal (by decide +kernel), legal (by decide +kernel),
     by decide +kernel⟩,
   ⟨legal (by decide +kernel), legal (by decide +kernel), legal (by decide +kernel),
     by decide +kernel⟩⟩

theorem witness_CrcChunkResult :
    RegionsLegal .frCrcChunk (setRegs [(.srcAddr, 4083), (.chLen, 13)] dev) :=
  legal (by decide +kernel)

theorem witness_WriteSigResult :
    (RegionsLegal .frWriteSig (srcDst 0 0 4088 8 dev) ∧
      8 ≤ (srcDst 0 0 4088 8 dev).operand.dstLen.toNat) ∧
    (RegionsLegal .frWriteSig (srcDst 0 0 4088 7 dev) ∧
      (srcDst 0 0 4088 7 dev).operand.dstLen.toNat < 8) :=
  ⟨⟨legal (by decide +kernel), by decide +kernel⟩, ⟨legal (by decide +kernel), by decide +kernel⟩⟩

theorem witness_ChunkRoundTrip :
    let s := setRegs [(.cursor, 8)] (streamAt0 png67 0)
    let t := after .frReadChunk s
    let t' : State := { t with operand := { t.operand with
      srcAddr := t.framer.chDataAddr, dstAddr := 0x200#32, dstLen := 25#32 } }
    s.params.Legal ∧ s.status.err = false ∧ exec .frReadChunk s = .next t ∧ t.status.err = false ∧
    RegionsLegal .frWriteChunkStored t' ∧ 12 + t.framer.chLen.toNat ≤ (25#32).toNat :=
  ⟨by decide +kernel, rfl, exec_after _ _, by decide +kernel, legal (by decide +kernel),
    by decide +kernel⟩

/-! ### Witnesses: the filter -/

/-- An image of two rows, the first with type 0 and the second with the type given. -/
def twoRows (f : Nat) (cap : Nat) : State := image 2 2 2 (bytes [0, 1, 2, 3, 4, f, 1, 1, 1, 1]) cap

theorem witness_DefilterReconstructs :
    let s := twoRows 4 8
    1 ≤ s.filter.bpp.toNat ∧ s.filter.bpp.toNat ≤ 4 ∧ RegionsLegal .sfDefilter s ∧
    s.operand.srcLen.toNat = 2 * (2 * 2 + 1) ∧ 2 * (2 * 2) ≤ s.operand.dstLen.toNat ∧
    (∀ y, y < 2 → (s.readByte (0 + y * (2 * 2 + 1))).toNat ≤ 4) ∧
    s.filter.height.toNat = 2 ∧ s.filter.width.toNat = 2 :=
  ⟨by decide +kernel, by decide +kernel, legal (by decide +kernel), by decide +kernel,
    by decide +kernel, by decide +kernel, by decide +kernel, by decide +kernel⟩

/-- The last row with the first bad type. -/
theorem witness_BadFilterTypeIsReported :
    let s := twoRows 5 8
    RegionsLegal .sfDefilter s ∧ s.operand.srcLen.toNat = 2 * (2 * 2 + 1) ∧
    2 * (2 * 2) ≤ s.operand.dstLen.toNat ∧
    (∀ y', y' < 1 → (s.readByte (0 + y' * (2 * 2 + 1))).toNat ≤ 4) ∧
    4 < (s.readByte (0 + 1 * (2 * 2 + 1))).toNat :=
  ⟨legal (by decide +kernel), by decide +kernel, by decide +kernel, by decide +kernel,
    by decide +kernel⟩

/-- BPP 0 and 5; a stream too long by one byte; a DST too short by one byte; for both commands. -/
theorem witness_FilterParameterFaults :
    (∀ b ∈ [0, 5], ¬ (1 ≤ b ∧ b ≤ 4) ∧ (setRegs [(.bpp, b)] dev).filter.bpp.toNat = b) ∧
    (∀ b ∈ [1, 4], 1 ≤ (setRegs [(.bpp, b)] dev).filter.bpp.toNat ∧
      (setRegs [(.bpp, b)] dev).filter.bpp.toNat ≤ 4) ∧
    (let s := image 2 2 1 (bytes [0, 1, 2, 0, 3, 4, 9]) 4
     RegionsLegal .sfDefilter s ∧ s.operand.srcLen.toNat ≠ 2 * (2 * 1 + 1)) ∧
    (let s := image 2 2 1 (bytes [0, 1, 2, 0, 3, 4]) 3
     RegionsLegal .sfDefilter s ∧ s.operand.srcLen.toNat = 2 * (2 * 1 + 1) ∧
      s.operand.dstLen.toNat < 2 * (2 * 1)) ∧
    (let s := image 2 2 1 (bytes [1, 2, 3]) 6
     RegionsLegal .sfRefilterNone s ∧ s.operand.srcLen.toNat ≠ 2 * (2 * 1)) ∧
    (let s := image 2 2 1 (bytes [1, 2, 3, 4]) 5
     RegionsLegal .sfRefilterNone s ∧ s.operand.srcLen.toNat = 2 * (2 * 1) ∧
      s.operand.dstLen.toNat < 2 * (2 * 1 + 1)) :=
  ⟨by decide +kernel, by decide +kernel, ⟨legal (by decide +kernel), by decide +kernel⟩,
   ⟨legal (by decide +kernel), by decide +kernel, by decide +kernel⟩,
   ⟨legal (by decide +kernel), by decide +kernel⟩,
   ⟨legal (by decide +kernel), by decide +kernel, by decide +kernel⟩⟩

theorem witness_RefilterResult :
    let s := image 3 2 1 (bytes [9, 8, 7, 6, 5, 4]) 8
    1 ≤ s.filter.bpp.toNat ∧ s.filter.bpp.toNat ≤ 4 ∧ RegionsLegal .sfRefilterNone s ∧
    s.operand.srcLen.toNat = 2 * (3 * 1) ∧ 2 * (3 * 1 + 1) ≤ s.operand.dstLen.toNat :=
  ⟨by decide +kernel, by decide +kernel, legal (by decide +kernel), by decide +kernel,
    by decide +kernel⟩

theorem witness_FilterRoundTrip :
    let s := image 3 2 1 (bytes [9, 8, 7, 6, 5, 4]) 8
    let t := after .sfRefilterNone s
    let t' : State := { t with operand := { t.operand with
      srcAddr := s.operand.dstAddr, srcLen := t.out.len, dstAddr := 0x200#32, dstLen := 6#32 } }
    s.status.err = false ∧ exec .sfRefilterNone s = .next t ∧ t.status.err = false ∧
    RegionsLegal .sfDefilter t' ∧ s.operand.srcLen.toNat ≤ (6#32).toNat :=
  ⟨rfl, exec_after _ _, by decide +kernel, legal (by decide +kernel), by decide +kernel⟩

/-- The tie orders: all equal, b and c nearest equally, c nearest (spec vectors V-P1 and after). -/
theorem witness_PaethPicksTheNearest :
    paethPredictor 5 5 5 = 5 ∧ paethPredictor 1 2 3 = 1 ∧ paethPredictor 10 20 10 = 20 ∧
    paethPredictor 100 50 75 = 75 := by
  decide +kernel

/-! ### Witnesses: the cipher -/

theorem witness_PowmodIsThePower : 1 ≤ 1 := Nat.le_refl 1

/-- KEY_BITS 9, the smallest, with a modulus and with a zero one; 1024, the largest; 8 and 1025. -/
theorem witness_KeyLoadAndClear :
    let s := setRegs [(.keyBits, 9)] (dev.memWrite 0 (bytes [0, 0xDD, 0, 5, 0, 0x4D]))
    let z := setRegs [(.keyBits, 9)] (dev.memWrite 0 (bytes [0, 0, 0, 5, 0, 0x4D]))
    let m := setRegs [(.keyBits, 1024)] dev
    (9 ≤ s.cipher.keyBits.toNat ∧ s.cipher.keyBits.toNat ≤ s.params.kmaxBits ∧
      RegionsLegal .rcLoadKey s ∧ fromBE (s.memRead 0 2) ≠ 0) ∧
    (RegionsLegal .rcLoadKey z ∧ fromBE (z.memRead 0 2) = 0) ∧
    (m.cipher.keyBits.toNat ≤ m.params.kmaxBits ∧ RegionsLegal .rcLoadKey m) ∧
    (setRegs [(.keyBits, 8)] dev).cipher.keyBits.toNat < 9 ∧
    dev.params.kmaxBits < (setRegs [(.keyBits, 1025)] dev).cipher.keyBits.toNat :=
  ⟨⟨by decide +kernel, by decide +kernel, legal (by decide +kernel), by decide +kernel⟩,
   ⟨legal (by decide +kernel), by decide +kernel⟩, ⟨by decide +kernel, legal (by decide +kernel)⟩,
   by decide +kernel, by decide +kernel⟩

theorem witness_KeyCheckThenZeroLength :
    dev.status.keyValid = false ∧ keyed.status.keyValid = true ∧ keyed.operand.srcLen = 0#32 :=
  ⟨rfl, rfl, rfl⟩

/-- A stream of 3 bytes (2 blocks) with DST and EXT exactly large enough, and each too short by one. -/
theorem witness_EcbEncryptResult :
    let s (d e : Nat) := setRegs [(.extAddr, 0x180), (.extLen, e)] (srcDst 0x10 3 0x100 d
      (keyed.memWrite 0x10 (bytes [0x30, 0x31, 0x32])))
    (s 4 2).KeyOk ∧ (s 4 2).status.keyValid = true ∧ 0 < (s 4 2).operand.srcLen.toNat ∧
    (RegionsLegal .rcEcbEnc (s 4 2) ∧ 2 * 2 ≤ (s 4 2).operand.dstLen.toNat ∧
      2 ≤ (s 4 2).operand.extLen.toNat) ∧
    (RegionsLegal .rcEcbEnc (s 3 2) ∧ (s 3 2).operand.dstLen.toNat < 2 * 2) ∧
    (RegionsLegal .rcEcbEnc (s 4 1) ∧ (s 4 1).operand.extLen.toNat < 2) :=
  ⟨keyed_keyOk, rfl, by decide +kernel, ⟨legal (by decide +kernel), by decide +kernel,
    by decide +kernel⟩, ⟨legal (by decide +kernel), by decide +kernel⟩,
    ⟨legal (by decide +kernel), by decide +kernel⟩⟩

/-- The five clauses: n = 3; l = 2 and l = 5; EXT_LEN = 1; DST_LEN = 2; and l = 3 and l = 4 that fit. -/
theorem witness_EcbDecryptResult :
    let s (n l e d : Nat) := setRegs [(.extAddr, 0x180), (.extLen, e), (.plainLen, l)]
      (srcDst 0x10 n 0x100 d keyed)
    ((s 3 3 2 3).KeyOk ∧ (s 3 3 2 3).status.keyValid = true ∧ 0 < (s 3 3 2 3).operand.srcLen.toNat ∧
      RegionsLegal .rcEcbDec (s 3 3 2 3) ∧ (s 3 3 2 3).operand.srcLen.toNat % 2 ≠ 0) ∧
    (RegionsLegal .rcEcbDec (s 4 2 2 4) ∧ (s 4 2 2 4).cipher.plainLen.toNat ≤ 2 * (2 - 1)) ∧
    (RegionsLegal .rcEcbDec (s 4 5 2 5) ∧ 2 * 2 < (s 4 5 2 5).cipher.plainLen.toNat) ∧
    (RegionsLegal .rcEcbDec (s 4 3 1 3) ∧ (s 4 3 1 3).operand.extLen.toNat ≠ 2) ∧
    (RegionsLegal .rcEcbDec (s 4 3 2 2) ∧ (s 4 3 2 2).operand.dstLen.toNat < 3) ∧
    (RegionsLegal .rcEcbDec (s 4 3 2 3) ∧ RegionsLegal .rcEcbDec (s 4 4 2 4)) :=
  ⟨⟨keyed_keyOk, rfl, by decide +kernel, legal (by decide +kernel), by decide +kernel⟩,
   ⟨legal (by decide +kernel), by decide +kernel⟩, ⟨legal (by decide +kernel), by decide +kernel⟩,
   ⟨legal (by decide +kernel), by decide +kernel⟩, ⟨legal (by decide +kernel), by decide +kernel⟩,
   ⟨legal (by decide +kernel), legal (by decide +kernel)⟩⟩

/-- Four bytes, so a full and a short segment, with DST exactly large enough, and too short by one. -/
theorem witness_CfbResult :
    let s := srcDst 0x10 4 0x100 4 keyed
    let u := srcDst 0x10 4 0x100 3 keyed
    s.KeyOk ∧ s.status.keyValid = true ∧ 0 < s.operand.srcLen.toNat ∧
    (RegionsLegal .rcCfbEnc s ∧ RegionsLegal .rcCfbDec s ∧
      s.operand.srcLen.toNat ≤ s.operand.dstLen.toNat) ∧
    (RegionsLegal .rcCfbEnc u ∧ RegionsLegal .rcCfbDec u ∧
      u.operand.dstLen.toNat < u.operand.srcLen.toNat) :=
  ⟨keyed_keyOk, rfl, by decide +kernel,
   ⟨legal (by decide +kernel), legal (by decide +kernel), by decide +kernel⟩,
   ⟨legal (by decide +kernel), legal (by decide +kernel), by decide +kernel⟩⟩

/-- SRC_LEN 0 and 4 (B = 3); DST_LEN 2; and SRC_LEN 1 and 3 with DST_LEN 3. -/
theorem witness_ModexpResult :
    let s (n d : Nat) := srcDst 0x10 n 0x100 d keyed
    ((s 0 3).KeyOk ∧ (s 0 3).status.keyValid = true ∧ (s 0 3).operand.srcLen.toNat = 0 ∧
      (s 4 3).key.kb < (s 4 3).operand.srcLen.toNat) ∧
    (RegionsLegal .rcModexpE (s 3 2) ∧ RegionsLegal .rcModexpD (s 3 2) ∧
      (s 3 2).operand.dstLen.toNat < (s 3 2).key.kb) ∧
    (RegionsLegal .rcModexpE (s 1 3) ∧ RegionsLegal .rcModexpD (s 3 3) ∧
      (s 3 3).operand.srcLen.toNat ≤ (s 3 3).key.kb ∧ (s 3 3).key.kb ≤ (s 3 3).operand.dstLen.toNat) :=
  ⟨⟨keyed_keyOk, rfl, by decide +kernel, by decide +kernel⟩,
   ⟨legal (by decide +kernel), legal (by decide +kernel), by decide +kernel⟩,
   ⟨legal (by decide +kernel), legal (by decide +kernel), by decide +kernel, by decide +kernel⟩⟩

theorem witness_CfbRoundTrip :
    let s := srcDst 0x10 4 0x100 4
      ((keyed.memWrite 0 (bytes [1, 2, 3])).memWrite 0x10 (bytes [0x48, 0x45, 0x4C, 0x4C]))
    let t := after .rcCfbEnc s
    let t' : State := { t with operand := { t.operand with
      srcAddr := s.operand.dstAddr, srcLen := t.out.len, dstAddr := 0x200#32, dstLen := 4#32 } }
    s.KeyOk ∧ s.status.err = false ∧ exec .rcCfbEnc s = .next t ∧ t.status.err = false ∧
    RegionsLegal .rcCfbDec t' ∧ s.operand.srcLen.toNat ≤ (4#32).toNat :=
  ⟨keyed_keyOk, rfl, exec_after _ _, by decide +kernel, legal (by decide +kernel), by decide +kernel⟩

theorem keyed2_consistent : ∀ m, m < 259 → (m ^ 5 % 259) ^ 29 % 259 = m := by decide +kernel

theorem witness_EcbRoundTrip :
    let s := setRegs [(.extAddr, 0x180), (.extLen, 2)]
      (srcDst 0x10 2 0x100 2 (keyed2.memWrite 0x10 (bytes [0x48, 0xFF])))
    let t := after .rcEcbEnc s
    let t' : State := { t with
      operand := { t.operand with
        srcAddr := s.operand.dstAddr, srcLen := t.out.len, extLen := t.out.extLen,
        dstAddr := 0x200#32, dstLen := 2#32 }
      cipher := { t.cipher with plainLen := s.operand.srcLen } }
    s.KeyOk ∧ s.status.keyNarrow = false ∧
    (∀ m, m < s.key.kn → (m ^ s.key.ke % s.key.kn) ^ s.key.kd % s.key.kn = m) ∧
    s.status.err = false ∧ s.status.blockGeN = false ∧ s.status.dropNz = false ∧
    exec .rcEcbEnc s = .next t ∧ t.status.err = false ∧ RegionsLegal .rcEcbDec t' ∧
    s.operand.srcLen.toNat ≤ (2#32).toNat :=
  ⟨keyed2_keyOk, rfl, keyed2_consistent, rfl, rfl, rfl, exec_after _ _, by decide +kernel,
    legal (by decide +kernel), by decide +kernel⟩

/-- Offsets at both ends of the map; reserved ones between and after them; the first and last RW one. -/
theorem witness_RegisterMap :
    (∀ off ∈ [0x000, 0x0C4], ∃ p ∈ registerMap dev, p.1 = off) ∧
    (∀ off ∈ [0x00C, 0x034, 0x07C, 0x0C8, 0xFFC],
      off % 4 = 0 ∧ off < 0x1000 ∧ ∀ p ∈ registerMap dev, p.1 ≠ off) ∧
    dev.phase = .idle ∧ (∀ off ∈ [0x040, 0x0BC], ∃ p ∈ writableMap dev 7#32, p.1 = off) ∧
    (withScript [.bus (.write 0x0BC 4 7)] dev).script = [.bus (.write 0x0BC 4 7)] ∧
    (withScript [.bus (.read 0x0C4 4)] dev).script = [.bus (.read 0x0C4 4)] := by
  decide +kernel

end Sys2Proof.Tests
end

section
/-! SUPPORT. What a command does to STATUS.ERR and STATUS.CRC_MATCH (10_state.md R28, R30), and from it
the obligation about the writers of CRC_MATCH. -/

namespace Sys2Proof.Machine

/-- A success leaves ERR to the next acceptance, and CRC_MATCH unless it is the success of one of the
three commands that compare a CRC (41_framer.md R175, R184, R186). -/
theorem Success.status_err_and_crcMatch {i : Instr} {s t : State} (h : Success i s t) :
    t.status.err = s.status.err ∧
      (i ≠ .frReadChunk ∧ i ≠ .frParseDoc ∧ i ≠ .frCrcChunk →
        t.status.crcMatch = s.status.crcMatch) := by
  cases i <;> simp only [Success] at h
  case frReadChunk =>
    obtain ⟨-, -, -, rfl⟩ := h
    exact ⟨rfl, fun hi => absurd rfl hi.1⟩
  case frParseDoc =>
    obtain ⟨-, -, ks, -, -, rfl⟩ := h
    exact ⟨rfl, fun hi => absurd rfl hi.2.1⟩
  case frCrcChunk =>
    obtain ⟨-, rfl⟩ := h
    exact ⟨rfl, fun hi => absurd rfl hi.2.2⟩
  case nop | rcClearKey =>
    subst h
    exact ⟨rfl, fun _ => rfl⟩
  case rcModexpE | rcModexpD =>
    obtain ⟨-, rfl⟩ := h
    exact ⟨rfl, fun _ => rfl⟩
  case frWriteChunkStored | frWriteChunkRecomp | frWriteChunkPlace | frWriteSig =>
    obtain ⟨-, -, rfl⟩ := h
    exact ⟨rfl, fun _ => rfl⟩
  case sfDefilter =>
    obtain ⟨-, -, -, -, -, rfl⟩ := h
    exact ⟨rfl, fun _ => rfl⟩
  case sfRefilterNone =>
    obtain ⟨-, -, -, -, rfl⟩ := h
    exact ⟨rfl, fun _ => rfl⟩
  case rcLoadKey =>
    obtain ⟨-, -, -, rfl⟩ := h
    exact ⟨rfl, fun _ => rfl⟩
  case rcEcbEnc | rcEcbDec | rcCfbEnc | rcCfbDec =>
    obtain ⟨-, ⟨-, rfl⟩ | ⟨-, -, rfl⟩⟩ := h <;> exact ⟨rfl, fun _ => rfl⟩

/-- What a fault completes from has the CRC_MATCH of the command's start: at most the key is cleared. -/
@[simp] theorem faultBase_status_crcMatch (i : Instr) (s : State) :
    (faultBase i s).status.crcMatch = s.status.crcMatch := by
  unfold faultBase
  split <;> rfl

@[simp] theorem parseDocFault_status_crcMatch (f : CmdFault) (s : State) :
    (parseDocFault f s).status.crcMatch = s.status.crcMatch := by
  simp [parseDocFault]

/-- A command leaves CRC_MATCH, unless it is one of the three that compare a CRC and it succeeds: ERR,
0 at its start, is 1 at its end exactly after a fault. -/
theorem exec_keeps_crcMatch {i : Instr} {s t : State} (he : s.status.err = false)
    (h : exec i s = .next t)
    (hi : (i ≠ .frReadChunk ∧ i ≠ .frParseDoc ∧ i ≠ .frCrcChunk) ∨ t.status.err = true) :
    t.status.crcMatch = s.status.crcMatch := by
  rcases exec_cases h with ⟨f, rfl⟩ | ⟨-, -, f, rfl⟩ | hs
  · simp
  · simp
  · obtain ⟨herr, hcrc⟩ := hs.status_err_and_crcMatch
    exact hcrc (hi.resolve_right (by simp [herr, he]))

/-- Settles O27: by what a command can do, and for a word that is no command by its one fault. -/
theorem crcMatchWrittenOnlyByThreeCommands : Obligations.CrcMatchWrittenOnlyByThreeCommands := by
  unfold Obligations.CrcMatchWrittenOnlyByThreeCommands
  intro w s t he h hw
  rcases performWord_cases h with ⟨i, hd, hx⟩ | ⟨-, rfl⟩
  · refine exec_keeps_crcMatch he hx (hw.imp_left fun hne => ?_)
    simpa only [hd, ne_eq, Except.ok.injEq] using hne
  · simp

end Sys2Proof.Machine
end

section
/-! SUPPORT. The host's window (20_memory.md R81 to R84): what a step of the host is, what a transaction
to the buffer and to the register block answers and leaves, and from it the obligations about the two. -/

namespace Sys2Proof.Machine

/-! ### Steps and phases -/

/-- A host transaction at the head of the schedule is the step (40_common.md R140). -/
theorem step_bus {s : State} {tr : Transaction} {rest : List Event} (h : s.script = .bus tr :: rest) :
    step s = .next (hostStep tr { s with script := rest }) := by
  simp only [step, h, runEvent]

theorem busy_eq_false_iff (s : State) : s.busy = false ↔ s.phase = .idle := by
  unfold State.busy
  cases s.phase <;> simp

theorem busy_eq_true_iff (s : State) : s.busy = true ↔ s.phase ≠ .idle := by
  rw [← Bool.not_eq_false, ne_eq, busy_eq_false_iff]

/-! ### Window decode -/

theorem sizeLegal_iff (size : Nat) : sizeLegal size = true ↔ size = 1 ∨ size = 2 ∨ size = 4 := by
  simp [sizeLegal, or_assoc]

theorem regAccessLegal_iff (off size : Nat) :
    regAccessLegal off size = true ↔ size = 4 ∧ off % 4 = 0 := by
  simp [regAccessLegal]

theorem areaOf_regBlock (p : Params) {off size : Nat} (hpos : 0 < size) (h : off + size ≤ 0x1000) :
    areaOf p off size = .regBlock off :=
  if_pos (show off < 0x1000 ∧ off + size ≤ 0x1000 by omega)

theorem areaOf_buffer (p : Params) {a size : Nat} (hpos : 0 < size) (h : a + size ≤ p.memBytes) :
    areaOf p (0x01000000 + a) size = .buffer a := by
  have hreg : ¬ (0x01000000 + a < Config.regBlockBytes ∧
      0x01000000 + a + size ≤ Config.regBlockBytes) := by
    unfold Config.regBlockBytes
    omega
  have hbuf : Config.bufBase ≤ 0x01000000 + a ∧ 0x01000000 + a < Config.bufBase + p.memBytes ∧
      0x01000000 + a + size ≤ Config.bufBase + p.memBytes := by
    unfold Config.bufBase
    omega
  rw [areaOf, if_neg hreg, if_pos hbuf, show Config.bufBase = 0x01000000 from rfl,
    Nat.add_sub_cancel_left]

/-! ### Transactions to the buffer -/

section Buffer

variable {s : State} {a size v : Nat} {tr : Transaction}

theorem transact_buffer_busy (hb : s.busy = true) (hz : size = 1 ∨ size = 2 ∨ size = 4)
    (ha : a + size ≤ s.params.memBytes)
    (ht : tr = .read (0x01000000 + a) size ∨ tr = .write (0x01000000 + a) size v) :
    transact tr s = (.busError, setBufBlocked s) := by
  have harea := areaOf_buffer s.params (by omega) ha
  have hsize := (sizeLegal_iff size).2 hz
  rcases ht with rfl | rfl <;> simp [transact, hsize, harea, hb]

theorem transact_buffer_misaligned (hb : s.busy = false) (hz : size = 1 ∨ size = 2 ∨ size = 4)
    (ha : a + size ≤ s.params.memBytes) (hm : a % size ≠ 0)
    (ht : tr = .read (0x01000000 + a) size ∨ tr = .write (0x01000000 + a) size v) :
    transact tr s = (.busError, s) := by
  have harea := areaOf_buffer s.params (by omega) ha
  have hsize := (sizeLegal_iff size).2 hz
  rcases ht with rfl | rfl <;> simp [transact, hsize, harea, hb, hm]

theorem transact_buffer_read (hb : s.busy = false) (hz : size = 1 ∨ size = 2 ∨ size = 4)
    (ha : a + size ≤ s.params.memBytes) (hm : a % size = 0) :
    transact (.read (0x01000000 + a) size) s = (.value (fromLE (s.memRead a size)), s) := by
  have harea := areaOf_buffer s.params (by omega) ha
  have hsize := (sizeLegal_iff size).2 hz
  simp [transact, hsize, harea, hb, hm]

theorem transact_buffer_write (hb : s.busy = false) (hz : size = 1 ∨ size = 2 ∨ size = 4)
    (ha : a + size ≤ s.params.memBytes) (hm : a % size = 0) :
    transact (.write (0x01000000 + a) size v) s =
      (.ok, s.memWrite a (leBytes size (v % 2 ^ (8 * size)))) := by
  have harea := areaOf_buffer s.params (by omega) ha
  have hsize := (sizeLegal_iff size).2 hz
  simp [transact, hsize, harea, hb, hm]

end Buffer

/-- Settles O8: the window decode selects the buffer, which a Busy device does not serve. -/
theorem busyBlocksTheBuffer : Obligations.BusyBlocksTheBuffer := by
  unfold Obligations.BusyBlocksTheBuffer
  intro s w rest off size v tr hp hz hlo hhi ht hs
  obtain ⟨a, rfl⟩ := Nat.exists_eq_add_of_le hlo
  have hb : s.busy = true := (busy_eq_true_iff s).2 (by simp [hp])
  have htr : transact tr { s with script := rest } =
      (.busError, setBufBlocked { s with script := rest }) :=
    transact_buffer_busy (s := { s with script := rest }) hb hz
      (show a + size ≤ s.params.memBytes by omega) ht
  rw [step_bus hs, hostStep, htr]
  rfl

/-! ### Little-endian values -/

theorem fromLE_append (bs cs : Bytes) :
    fromLE (bs ++ cs) = fromLE bs + 256 ^ bs.length * fromLE cs := by
  induction bs with
  | nil => simp [fromLE]
  | cons b bs ih =>
    simp only [List.cons_append, fromLE, ih, List.length_cons]
    ring

/-- The little-endian value of a buffer read, as the sum over its bytes (00_scope.md R12). -/
theorem fromLE_memRead (s : State) (a n : Nat) :
    fromLE (s.memRead a n) =
      ((List.range n).map fun i => (s.readByte (a + i)).toNat * 256 ^ i).sum := by
  induction n with
  | zero => rfl
  | succ n ih =>
    have hlast : fromLE (s.memRead (a + n) 1) = (s.readByte (a + n)).toNat := by
      simp [State.memRead, fromLE]
    rw [memRead_add, fromLE_append, ih, hlast, memRead_length, List.range_succ]
    simp [Nat.mul_comm]

theorem leBytes_mod (n v : Nat) : leBytes n (v % 256 ^ n) = leBytes n v := by
  simpa [fromLE_leBytes] using leBytes_fromLE (leBytes n v)

theorem leBytes_eq_map_range (n v : Nat) :
    leBytes n v = (List.range n).map fun i => BitVec.ofNat 8 (v / 256 ^ i) := by
  refine List.ext_getElem (by simp) fun i h1 h2 => ?_
  have hget := leBytes_getD n v i (by simpa using h1)
  rw [List.getD_eq_getElem _ _ h1] at hget
  simpa using hget

theorem memWrite_storedExactly (s : State) (a : Nat) (bs : Bytes) :
    StoredExactly s (s.memWrite a bs) a bs := readByte_memWrite s a bs

/-- Settles O11: the three cases of R83, by what the transaction answers in each. -/
theorem bufferAccessIsLittleEndian : Obligations.BufferAccessIsLittleEndian := by
  unfold Obligations.BufferAccessIsLittleEndian
  intro s rest a size v hp hz ha
  have hb : s.busy = false := (busy_eq_false_iff s).2 hp
  refine ⟨fun hm hs => ?_, fun hm hs => ?_, fun hm tr ht hs => ?_⟩
  · rw [step_bus hs, hostStep,
      transact_buffer_read (s := { s with script := rest }) hb hz ha hm, fromLE_memRead]
    rfl
  · have hbytes : leBytes size (v % 2 ^ (8 * size)) =
        (List.range size).map fun i => BitVec.ofNat 8 (v / 256 ^ i) := by
      rw [Nat.pow_mul, leBytes_mod, leBytes_eq_map_range]
    rw [step_bus hs, hostStep,
      transact_buffer_write (s := { s with script := rest }) hb hz ha hm, hbytes]
    exact ⟨_, rfl, rfl, memWrite_storedExactly s a _⟩
  · rw [step_bus hs, hostStep,
      transact_buffer_misaligned (s := { s with script := rest }) hb hz ha hm ht]
    rfl

/-! ### The register block -/

theorem Reg.offset_aligned (r : Reg) : r.offset % 4 = 0 ∧ r.offset + 4 ≤ 0x1000 := by
  cases r <;> decide

@[simp] theorem Reg.ofOffset_offset (r : Reg) : Reg.ofOffset r.offset = some r := by
  cases r <;> rfl

theorem Reg.ofOffset_eq_some {off : Nat} {r : Reg} (h : Reg.ofOffset off = some r) :
    r.offset = off := by
  simpa using List.find?_some h

theorem Reg.ofOffset_eq_none {off : Nat} (h : ∀ r : Reg, r.offset ≠ off) :
    Reg.ofOffset off = none :=
  List.find?_eq_none.2 fun r _ => by simpa using h r

/-- A register that is not RW ignores what is written (10_state.md R20). -/
theorem storeReg_of_not_rw {r : Reg} (h : r.isRW = false) (v : Word) (s : State) :
    storeReg r v s = s := by
  cases r <;> cases h <;> rfl

/-- What every register reads after a store: an RW register keeps every bit written to it, and no
other register changes (10_state.md R20). -/
theorem readReg_storeReg (q r : Reg) (v : Word) (s : State) :
    readReg q (storeReg r v s) = if q = r ∧ r.isRW = true then v else readReg q s := by
  cases r <;> cases q <;> rfl

/-- A store to a register reaches only the four groups of operands that the host writes. -/
theorem storeReg_frame (r : Reg) (v : Word) (s : State) :
    storeReg r v s = { s with
      operand := (storeReg r v s).operand, framer := (storeReg r v s).framer
      filter := (storeReg r v s).filter, cipher := (storeReg r v s).cipher } := by
  cases r <;> rfl

/-- No register reads the outside world's side of the state (log entry 1). -/
@[simp] theorem readReg_recordAnswer (r : Reg) (a : BusAnswer) (s : State) :
    readReg r (recordAnswer a s) = readReg r s := by
  cases r <;> rfl

@[simp] theorem readReg_script (r : Reg) (l : List Event) (s : State) :
    readReg r { s with script := l } = readReg r s := by
  cases r <;> rfl

/-- A write at the place of an RW register stores there while no command is in progress. -/
theorem writeRegOffset_rw {r : Reg} (hr : r.isRW = true) {s : State} (hb : s.busy = false)
    (v : Word) : writeRegOffset r.offset v s = storeReg r v s := by
  unfold writeRegOffset
  rw [Reg.ofOffset_offset]
  cases r <;> cases hr <;> simp [hb]

/-- A write to an RO register or a reserved offset is ignored, but that BUSY_WRITE records it while a
command is in progress (10_state.md R20, R34). -/
theorem writeRegOffset_ignored {off : Nat} (hcmd : off ≠ 0x010) (hctrl : off ≠ 0x02C)
    (hirq : off ≠ 0x030) (hrw : ∀ r : Reg, r.isRW = true → r.offset ≠ off) (v : Word) (s : State) :
    (s.busy = true ∧ writeRegOffset off v s = setBusyWrite s) ∨
      (s.busy = false ∧ writeRegOffset off v s = s) := by
  rcases writeRegOffset_cases off v s with
    ⟨hr, -⟩ | ⟨hr, -⟩ | h | ⟨-, hr, -⟩ | ⟨hb, r, hr, hw⟩ | ⟨hb, -, hw⟩
  · exact absurd (Reg.ofOffset_eq_some hr).symm hctrl
  · exact absurd (Reg.ofOffset_eq_some hr).symm hirq
  · exact .inl h
  · exact absurd (Reg.ofOffset_eq_some hr).symm hcmd
  · have hro : r.isRW = false := by
      rw [← Bool.not_eq_true]
      exact fun h => hrw r h (Reg.ofOffset_eq_some hr)
    exact .inr ⟨hb, hw.trans (storeReg_of_not_rw hro v s)⟩
  · exact .inr ⟨hb, hw⟩

section RegBlock

variable {off : Nat}

theorem transact_reg_write (s : State) (v : Nat) (hal : off % 4 = 0) (hlt : off + 4 ≤ 0x1000) :
    transact (.write off 4 v) s = (.ok, writeRegOffset off (word v) s) := by
  simp [transact, (sizeLegal_iff 4).2, areaOf_regBlock s.params (by decide : 0 < 4) hlt,
    (regAccessLegal_iff off 4).2 ⟨rfl, hal⟩]

theorem transact_reg_read (s : State) (hal : off % 4 = 0) (hlt : off + 4 ≤ 0x1000) :
    transact (.read off 4) s = (.value (readRegOffset off s).toNat, s) := by
  simp [transact, (sizeLegal_iff 4).2, areaOf_regBlock s.params (by decide : 0 < 4) hlt,
    (regAccessLegal_iff off 4).2 ⟨rfl, hal⟩]

theorem transact_reg_misaligned {size v : Nat} {tr : Transaction} (s : State)
    (hlt : off + size ≤ 0x1000) (hm : ¬ (size = 4 ∧ off % 4 = 0))
    (hz : size = 1 ∨ size = 2 ∨ size = 4) (ht : tr = .read off size ∨ tr = .write off size v) :
    transact tr s = (.busError, s) := by
  have harea := areaOf_regBlock s.params (by omega) hlt
  have hsize := (sizeLegal_iff size).2 hz
  have hacc : ¬ regAccessLegal off size = true := mt (regAccessLegal_iff off size).1 hm
  rcases ht with rfl | rfl <;> simp [transact, hsize, harea, hacc]

end RegBlock

/-- Settles O12: the five clauses of R82, by what the transaction answers and leaves in each. -/
theorem registerAccess : Obligations.RegisterAccess := by
  unfold Obligations.RegisterAccess
  intro s rest
  refine ⟨fun r v hp hr hs => ?_, fun off v hal hlt hcmd hctrl hirq hrw hs => ?_, fun r hs => ?_,
    fun off hal hlt hres hs => ?_, fun off size v tr hlt hm hz ht hs => ?_⟩
  · obtain ⟨hal, hlt⟩ := r.offset_aligned
    have hb : ({ s with script := rest } : State).busy = false := (busy_eq_false_iff _).2 hp
    rw [step_bus hs, hostStep, transact_reg_write _ v hal hlt, writeRegOffset_rw hr hb]
    refine ⟨_, rfl, ?_, ?_, fun q hq => ?_⟩
    · exact congrArg (recordAnswer .ok) (storeReg_frame r (word v) { s with script := rest })
    · simp [readReg_storeReg, hr, word]
    · simp [readReg_storeReg, hq]
  · rw [step_bus hs, hostStep, transact_reg_write _ v hal (by omega)]
    rcases writeRegOffset_ignored hcmd hctrl hirq hrw (word v) { s with script := rest } with
      ⟨hb, hw⟩ | ⟨hb, hw⟩
    · rw [hw]
      exact ⟨_, rfl, rfl, fun hp => absurd hp ((busy_eq_true_iff _).1 hb), fun _ => rfl⟩
    · rw [hw]
      exact ⟨_, rfl, rfl, fun _ => rfl, fun hp => absurd ((busy_eq_false_iff _).1 hb) hp⟩
  · obtain ⟨hal, hlt⟩ := r.offset_aligned
    rw [step_bus hs, hostStep, transact_reg_read _ hal hlt, readRegOffset, Reg.ofOffset_offset,
      ← readReg_script r rest s]
    rfl
  · rw [step_bus hs, hostStep, transact_reg_read _ hal (by omega), readRegOffset,
      Reg.ofOffset_eq_none hres]
    rfl
  · rw [step_bus hs, hostStep, transact_reg_misaligned _ hlt hm hz ht]
    rfl

end Sys2Proof.Machine
end

section
/-! SUPPORT. The region checks as a command reports them (20_memory.md R86, R87; 60_exceptions.md R321,
R324): which fault comes first, that the region checks are its only source, and the two obligations. -/

namespace Sys2Proof.Machine

/-! ### The codes of the checks (60_exceptions.md R320) -/

section Codes

variable {s : State} {f : CmdFault}

theorem code_of_ite {p : Prop} [Decidable p] {g : CmdFault} (h : (if p then some g else none) = some f) :
    f.code = g.code := by
  split at h
  · rw [Option.some.inj h]
  · cases h

theorem cursorFault_code (h : cursorFault s = some f) : f.code = .badParam := code_of_ite h

theorem keyBitsFault_code (h : keyBitsFault s = some f) : f.code = .badParam := code_of_ite h

theorem blockLenFault_code (h : blockLenFault s = some f) : f.code = .badParam := code_of_ite h

theorem bppFault_code (h : bppFault s = some f) : f.code = .badParam := by
  simp only [bppFault] at h
  split at h
  · cases h
  · rw [← Option.some.inj h]

theorem keyInvalidFault_code (h : keyInvalidFault s = some f) : f.code = .keyInvalid := code_of_ite h

theorem keyNotLoadedFault_code (h : keyNotLoadedFault s = some f) : f.code = .keyNotLoaded := by
  unfold keyNotLoadedFault at h
  split at h
  · cases h
  · rw [← Option.some.inj h]

theorem dstOverflowFault_code {n : Nat} (h : dstOverflowFault n s = some f) :
    f.code = .dstOverflow := code_of_ite h

theorem extOverflowFault_code {n : Nat} (h : extOverflowFault n s = some f) :
    f.code = .dstOverflow := code_of_ite h

theorem pixelDataFault_code (h : pixelDataFault s = some f) : f.code = .corruptPixelData :=
  code_of_ite h

theorem rawLengthFault_code (h : rawLengthFault s = some f) : f.code = .lengthMismatch :=
  code_of_ite h

theorem filterTypeFault_code (h : filterTypeFault s = some f) : f.code = .badFilterType := by
  obtain ⟨y, -, hy⟩ := List.exists_of_findSome?_eq_some h
  exact code_of_ite hy

theorem ecbDecLengthFault_code (h : ecbDecLengthFault s = some f) : f.code = .lengthMismatch := by
  simp only [ecbDecLengthFault] at h
  split_ifs at h <;> rw [← Option.some.inj h]

theorem truncationFault_code {i c : Nat} (h : truncationFault s i c = some f) :
    f.code = .truncatedChunk := by
  simp only [truncationFault] at h
  split_ifs at h <;> rw [← Option.some.inj h]

theorem signatureFault_code (h : signatureFault s = some f) : f.code = .badSignature := by
  unfold signatureFault at h
  split at h
  · rw [← Option.some.inj h]
  · obtain ⟨j, -, hj⟩ := List.exists_of_findSome?_eq_some h
    simp only at hj
    split at hj
    · cases hj
    · rw [← Option.some.inj hj]

theorem regionOverlapFault_code {rs : List Region} (h : regionOverlapFault rs = some f) :
    f.code = .regionOverlap := by
  obtain ⟨p, -, hp⟩ := List.exists_of_findSome?_eq_some h
  unfold pairFault at hp
  split at hp
  · exact code_of_ite hp
  · cases hp

end Codes

/-- The two codes of the region checks. -/
abbrev FaultCode.isRegion (c : FaultCode) : Prop := c = .addrRange ∨ c = .regionOverlap

/-! ### The region checks are the only source of their codes -/

/-- A check of a command that fails with a code of the region checks does so as they do. -/
def OwnRegionFault (i : Instr) (s : State) (check : Option CmdFault) : Prop :=
  ∀ f, check = some f → f.code.isRegion → regionFault i s = some f

section Own

variable {i : Instr} {s t : State}

theorem OwnRegionFault.regions : OwnRegionFault i s (regionFault i s) := fun _ h _ => h

theorem OwnRegionFault.of_code {check : Option CmdFault} {c : FaultCode} (hc : ¬ c.isRegion)
    (h : ∀ {f}, check = some f → f.code = c) : OwnRegionFault i s check :=
  fun _ hf hr => absurd (h hf ▸ hr) hc

theorem OwnRegionFault.or {a b : Option CmdFault} (ha : OwnRegionFault i s a)
    (hb : OwnRegionFault i s b) : OwnRegionFault i s (a <|> b) := fun f h =>
  (check_or_eq_some.1 h).elim (ha f) fun h => hb f h.2

theorem OwnRegionFault.keyNotLoaded : OwnRegionFault i s (keyNotLoadedFault s) :=
  .of_code (by decide) keyNotLoadedFault_code

theorem OwnRegionFault.bpp : OwnRegionFault i s (bppFault s) := .of_code (by decide) bppFault_code

theorem OwnRegionFault.dstOverflow (n : Nat) : OwnRegionFault i s (dstOverflowFault n s) :=
  .of_code (by decide) dstOverflowFault_code

theorem OwnRegionFault.writeChunk : OwnRegionFault i s (writeChunkFault i s) :=
  .or .regions (.dstOverflow _)

theorem OwnRegionFault.cfb : OwnRegionFault i s (cfbFault i s) := .or .regions (.dstOverflow _)

theorem OwnRegionFault.modexp : OwnRegionFault i s (modexpFault i s) :=
  .or .keyNotLoaded (.or (.of_code (by decide) blockLenFault_code) (.or .regions (.dstOverflow _)))

/-- The command's report, in the state `t` it leaves: a success, or a fault that has a code of the
region checks only as their own fault. -/
def ReportsOwnRegionFault (i : Instr) (s t : State) : Prop :=
  t.err = ErrorReport.zero ∨
    ∃ f : CmdFault, t.err = f.report ∧ (f.code.isRegion → regionFault i s = some f)

theorem runChecked_reports {check : Option CmdFault} {effect : State → State}
    (hc : OwnRegionFault i s check) (he : ReportsOwnRegionFault i s (effect s))
    (h : runChecked check effect s = .next t) : ReportsOwnRegionFault i s t := by
  rcases runChecked_next.1 h with ⟨f, hf, rfl⟩ | ⟨-, rfl⟩
  · exact .inr ⟨f, rfl, hc f hf⟩
  · exact he

theorem runStream_reports {check : State → Option CmdFault} {effect : State → State}
    (hc : OwnRegionFault i s (check s)) (he : (effect s).err = ErrorReport.zero)
    (h : runStream check effect s = .next t) : ReportsOwnRegionFault i s t := by
  rcases runStream_next.1 h with ⟨-, rfl⟩ | ⟨-, -, rfl⟩ | ⟨-, -, ⟨f, hf, rfl⟩ | ⟨-, rfl⟩⟩
  · exact .inr ⟨_, rfl, fun hr => absurd hr (by decide)⟩
  · exact .inl rfl
  · exact .inr ⟨f, rfl, hc f hf⟩
  · exact .inl he

end Own

/-- The execution faults of FR_PARSE_DOC have codes of their own (41_framer.md R178, R181). -/
theorem parseLoop_error_code {s : State} {fuel pos : Nat} {ks : List Chunk} {f : CmdFault}
    (h : parseLoop s fuel pos ks = .error f) : ¬ f.code.isRegion := by
  induction fuel generalizing pos ks with
  | zero =>
    rw [← Except.error.inj h]
    simp [missingIend]
  | succ fuel ih =>
    rw [parseLoop] at h
    split at h
    · rw [← Except.error.inj h]
      simp [missingIend]
    · split at h
      · next g hg =>
        rw [← Except.error.inj h, truncationFault_code hg]
        simp
      · simp only at h
        split_ifs at h
        · rw [← Except.error.inj h]
          simp [tableOverflow]
        · exact ih h

theorem requireIhdr_error_code {ks : List Chunk} {f : CmdFault} (h : requireIhdr ks = .error f) :
    ¬ f.code.isRegion := by
  unfold requireIhdr at h
  split at h
  · cases h
  · rw [← Except.error.inj h]
    simp [missingIhdr]

theorem parseDocRun_reports (s : State) : ReportsOwnRegionFault .frParseDoc s (parseDocRun s) := by
  unfold parseDocRun
  split
  · next f hf => exact .inr ⟨f, rfl, fun hr => absurd hr (parseLoop_error_code hf)⟩
  · split
    · next f hf => exact .inr ⟨f, rfl, fun hr => absurd hr (requireIhdr_error_code hf)⟩
    · exact .inl rfl

theorem execRcLoadKey_reports {s t : State} (h : execRcLoadKey s = .next t) :
    ReportsOwnRegionFault .rcLoadKey s t := by
  have hc : OwnRegionFault .rcLoadKey s
      (keyBitsFault s <|> regionFault .rcLoadKey s <|> keyInvalidFault s) :=
    .or (.of_code (by decide) keyBitsFault_code)
      (.or .regions (.of_code (by decide) keyInvalidFault_code))
  unfold execRcLoadKey at h
  split at h
  · next f hf => exact .inr ⟨f, Host.Outcome.next.inj h ▸ rfl, hc f hf⟩
  · exact .inl (Host.Outcome.next.inj h ▸ rfl)

/-- Whatever a command reports, ADDR_RANGE and REGION_OVERLAP come from its region checks only. -/
theorem exec_reports {i : Instr} {s t : State} (h : exec i s = .next t) :
    ReportsOwnRegionFault i s t := by
  cases i <;> simp only [exec] at h
  case nop | rcClearKey => exact .inl (Host.Outcome.next.inj h ▸ rfl)
  case frReadChunk =>
    exact runChecked_reports (.or (.of_code (by decide) cursorFault_code)
      (.or .regions (.of_code (by decide) truncationFault_code))) (.inl rfl) h
  case frParseDoc =>
    exact runChecked_reports (.or .regions (.of_code (by decide) signatureFault_code))
      (parseDocRun_reports s) h
  case frWriteChunkStored | frWriteChunkRecomp | frWriteChunkPlace =>
    exact runChecked_reports .writeChunk (.inl rfl) h
  case frCrcChunk => exact runChecked_reports .regions (.inl rfl) h
  case frWriteSig => exact runChecked_reports (.or .regions (.dstOverflow _)) (.inl rfl) h
  case sfDefilter =>
    exact runChecked_reports (.or .bpp (.or .regions (.or (.of_code (by decide) pixelDataFault_code)
      (.or (.dstOverflow _) (.of_code (by decide) filterTypeFault_code))))) (.inl rfl) h
  case sfRefilterNone =>
    exact runChecked_reports (.or .bpp (.or .regions
      (.or (.of_code (by decide) rawLengthFault_code) (.dstOverflow _)))) (.inl rfl) h
  case rcLoadKey => exact execRcLoadKey_reports h
  case rcEcbEnc =>
    exact runStream_reports (.or .regions (.or (.dstOverflow _)
      (.of_code (by decide) extOverflowFault_code))) rfl h
  case rcEcbDec =>
    exact runStream_reports (.or .regions (.or (.of_code (by decide) ecbDecLengthFault_code)
      (.dstOverflow _))) rfl h
  case rcCfbEnc | rcCfbDec => exact runStream_reports .cfb rfl h
  case rcModexpE | rcModexpD => exact runChecked_reports .modexp (.inl rfl) h

/-- CODE, in bits 7..0 of ERR_CODE (60_exceptions.md R322). -/
theorem report_code_mod (f : CmdFault) : f.report.code.toNat % 256 = f.code.num := by
  have := f.code.num_range
  rw [show f.report.code = word (f.code.num ||| (f.sub <<< 8)) from rfl, codeWord_eq, word_toNat]
  omega

theorem FaultCode.num_injective : Function.Injective FaultCode.num := by
  intro a b h
  cases a <;> cases b <;> cases h <;> rfl

/-- A code of the region checks that they do not report is not in ERR_CODE. -/
theorem exec_code_ne {i : Instr} {s : State} {c : FaultCode} (hc : c.isRegion)
    (h : ∀ f, regionFault i s = some f → f.code ≠ c) :
    ∃ t, exec i s = .next t ∧ t.err.code.toNat % 256 ≠ c.num := by
  obtain ⟨t, ht⟩ := exec_next i s
  refine ⟨t, ht, ?_⟩
  rcases exec_reports ht with he | ⟨f, he, hf⟩
  · have := c.num_range
    rw [he, show ErrorReport.zero.code.toNat % 256 = 0 from rfl]
    omega
  · rw [he, report_code_mod]
    intro hnum
    have hfc : f.code = c := FaultCode.num_injective hnum
    exact h f (hf (hfc ▸ hc)) hfc

/-! ### Which region fault is reported -/

/-- A command whose earlier checks pass reports what its region checks find (60_exceptions.md R324). -/
theorem exec_of_regionFault {i : Instr} {s : State} {f : CmdFault} (he : EarlyChecksPass i s)
    (hf : regionFault i s = some f) : exec i s = .next (takeFault f (faultBase i s)) := by
  cases i <;> simp only [EarlyChecksPass] at he <;> simp only [exec]
  case nop | rcClearKey => cases hf
  case frReadChunk =>
    exact runChecked_next.2 (.inl ⟨f, by simp [(cursorFault_eq_none_iff s).2 he, hf], rfl⟩)
  case frParseDoc | frCrcChunk | frWriteSig =>
    exact runChecked_next.2 (.inl ⟨f, by simp [hf], rfl⟩)
  case frWriteChunkStored | frWriteChunkRecomp | frWriteChunkPlace =>
    exact runChecked_next.2 (.inl ⟨f, by simp [writeChunkFault, hf], rfl⟩)
  case sfDefilter | sfRefilterNone =>
    exact runChecked_next.2 (.inl ⟨f, by simp [(bppFault_eq_none_iff s).2 he, hf], rfl⟩)
  case rcLoadKey =>
    rw [execRcLoadKey, (keyBitsFault_eq_none_iff s).2 he, hf]
    rfl
  case rcEcbEnc | rcEcbDec | rcCfbEnc | rcCfbDec =>
    refine runStream_next.2 (.inr (.inr ⟨he.1, he.2, .inl ⟨f, ?_, rfl⟩⟩))
    simp [ecbEncFault, ecbDecFault, cfbFault, hf]
  case rcModexpE | rcModexpD =>
    refine runChecked_next.2 (.inl ⟨f, ?_, rfl⟩)
    simp [modexpFault, (keyNotLoadedFault_eq_none_iff s).2 he.1, (blockLenFault_eq_none_iff s).2 he.2,
      hf]

/-- The first region out of range is the one the range check reports. -/
theorem addrRangeFault_first {rs before after : List Region} {r : Region} {s : State}
    (hrs : rs = before ++ r :: after)
    (hbefore : ∀ q ∈ before, q.len = 0 ∨ q.addr + q.len ≤ s.params.memBytes)
    (hlen : r.len ≠ 0) (hr : s.params.memBytes < r.addr + r.len) :
    addrRangeFault rs s = some
      { code := .addrRange, sub := r.id.num, expected := s.params.memBytes,
        actual := r.addr + r.len } := by
  have hout : r.inRange s.params.memBytes = false := by
    rw [← Bool.not_eq_true, Region.inRange_iff]
    omega
  have hin : before.find? (fun q => !q.inRange s.params.memBytes) = none :=
    List.find?_eq_none.2 fun q hq => by simpa using (q.inRange_iff _).2 (hbefore q hq)
  simp [addrRangeFault, hrs, List.find?_append, hin, hout]

theorem overlapSub_eq (p q : RegionId) : (p.num <<< 4) ||| q.num = 16 * p.num + q.num := by
  cases p <;> cases q <;> rfl

/-- The first overlapping pair is the one the overlap check reports. -/
theorem regionOverlapFault_first {i : Instr} {s : State}
    {before after : List (RegionId × RegionId)} {w o : Region}
    (horder : overlapOrder = before ++ (w.id, o.id) :: after)
    (hw : w ∈ regions i s) (ho : o ∈ regions i s) (hwr : w.writes = true)
    (hov : 0 < w.len ∧ 0 < o.len ∧ w.addr < o.addr + o.len ∧ o.addr < w.addr + w.len)
    (hbefore : ∀ p ∈ before, pairFault (regions i s) p = none) :
    regionOverlapFault (regions i s) = some
      { code := .regionOverlap, sub := 16 * w.id.num + o.id.num, expected := w.addr,
        actual := o.addr } := by
  have hpair := pairFault_of_mem hw ho hwr
  rw [if_pos ((w.overlaps_iff o).2 hov), overlapSub_eq] at hpair
  rw [regionOverlapFault, horder, List.findSome?_append, List.findSome?_eq_none_iff.2 hbefore,
    List.findSome?_cons, hpair]
  rfl

/-- The region checks of a command whose earlier checks pass are reported as R86 and R87 say. -/
theorem regionsReported {i : Instr} {s : State} (he : EarlyChecksPass i s) : RegionsReported i s := by
  refine ⟨fun before after r hrs hbefore hlen hr => ?_,
    fun hin before after w o horder hw ho hwr hov hbefore => ?_⟩
  · have hf := addrRangeFault_first hrs hbefore hlen hr
    rw [exec_of_regionFault he (check_or_eq_some.2 (.inl hf)), takeFault_eq_faulted]
    rfl
  · have hrange := (addrRangeFault_eq_none_iff (regions i s) s).2 hin
    have hf := regionOverlapFault_first horder hw ho hwr hov fun p hp =>
      (pairFault_eq_none_iff p).2 (hbefore p hp)
    rw [exec_of_regionFault he (check_or_eq_some.2 (.inr ⟨hrange, hf⟩)), takeFault_eq_faulted]
    rfl

theorem regions_writtenOut (s : State) : RegionsWrittenOut s := by
  refine ⟨by decide, ?_⟩
  rintro src data dst key iv ext rfl rfl rfl hext rfl rfl
  rw [hext true, hext false]
  exact ⟨⟨rfl, rfl, rfl⟩, ⟨rfl, rfl, rfl, rfl, rfl, rfl, rfl⟩, ⟨rfl, rfl⟩,
    ⟨rfl, rfl, rfl, rfl, rfl, rfl⟩⟩

theorem regions_sorted (i : Instr) (s : State) :
    (regions i s).Pairwise (fun r q => r.id.num < q.id.num) := by
  cases i <;> simp [regions, srcRegion, dataRegion, dstRegion, extRegion, keyRegion, ivRegion,
    RegionId.num]

/-- Settles O31: the range check comes first and reports the first region out of range, and no other check
of a command has its code. -/
theorem addrRangeIsReported : Obligations.AddrRangeIsReported := by
  unfold Obligations.AddrRangeIsReported
  intro i s
  refine ⟨regions_writtenOut s, regions_sorted i s, fun he => (regionsReported he).1, fun hin => ?_⟩
  refine exec_code_ne (c := .addrRange) (.inl rfl) fun f hf => ?_
  rw [regionFault, (addrRangeFault_eq_none_iff _ s).2 hin] at hf
  rw [regionOverlapFault_code hf]
  decide

/-- Settles O32: with every region in range the overlap check reports the first pair in its order, and no
other check of a command has its code. -/
theorem regionOverlapIsReported : Obligations.RegionOverlapIsReported := by
  unfold Obligations.RegionOverlapIsReported
  intro i s
  refine ⟨fun hl => ?_, fun he => (regionsReported he).2⟩
  refine exec_code_ne (c := .regionOverlap) (.inr rfl) fun f hf => ?_
  rw [(regionFault_eq_none_iff i s).2 hl] at hf
  cases hf

end Sys2Proof.Machine
end

section
/-! SUPPORT. The bytes of a region that a command only reads (20_memory.md R88): every write of a command
lies in its write regions, which are clear of the others, and from it the obligation. -/

namespace Sys2Proof.Machine

/-- A success takes no fresh draw for the bytes that nothing has written. -/
theorem Success.memDraw {i : Instr} {s t : State} (h : Success i s t) : t.memDraw = s.memDraw := by
  cases i <;> simp only [Success] at h
  case nop | rcClearKey => exact h ▸ rfl
  case frCrcChunk => exact h.2 ▸ rfl
  case rcModexpE | rcModexpD => exact h.2 ▸ rfl
  case frWriteChunkStored | frWriteChunkRecomp | frWriteChunkPlace | frWriteSig => exact h.2.2 ▸ rfl
  case frReadChunk | rcLoadKey => exact h.2.2.2 ▸ rfl
  case sfRefilterNone =>
    obtain ⟨-, -, -, -, rfl⟩ := h
    rfl
  case sfDefilter =>
    obtain ⟨-, -, -, -, -, rfl⟩ := h
    rfl
  case frParseDoc =>
    obtain ⟨-, -, ks, -, -, rfl⟩ := h
    rfl
  case rcEcbEnc | rcEcbDec | rcCfbEnc | rcCfbDec =>
    obtain ⟨-, ⟨-, rfl⟩ | ⟨-, -, rfl⟩⟩ := h <;> rfl

@[simp] theorem faultBase_readByte (i : Instr) (s : State) (x : Nat) :
    (faultBase i s).readByte x = s.readByte x := by
  unfold faultBase
  split <;> rfl

/-- No address of a write region lies in a region that the command only reads (20_memory.md R87). -/
theorem RegionsLegal.not_written {i : Instr} {s : State} (h : RegionsLegal i s) {w r : Region}
    (hw : w ∈ regions i s) (hwr : w.writes = true) (hr : r ∈ regions i s) (hrd : r.writes = false)
    {x : Nat} (hx : r.addr ≤ x ∧ x < r.addr + r.len) : ¬ (w.addr ≤ x ∧ x < w.addr + w.len) := by
  have hne : w.id ≠ r.id := fun hid => by
    rw [regions_eq_of_id hw hr hid, hrd] at hwr
    cases hwr
  exact fun hwx => h.disjoint hw hr hwr hne x hwx hx

/-- A success leaves the bytes of a region it only reads. -/
theorem Success.readByte_of_read_region {i : Instr} {s t : State} (h : Success i s t) {r : Region}
    (hr : r ∈ regions i s) (hrd : r.writes = false) {x : Nat}
    (hx : r.addr ≤ x ∧ x < r.addr + r.len) : t.readByte x = s.readByte x := by
  have hdraw := h.memDraw
  rcases h.memoryAfter with hm | ⟨hl, hd, main, hm, -, hlen⟩ | ⟨rfl, hl, main, extra, hm, ⟨-, hlen⟩, -, hext⟩
  · exact readByte_congr hm hdraw x
  · have hdst := hl.not_written hd rfl hr hrd hx
    simp only [dstRegion] at hdst
    calc t.readByte x = (s.memWrite s.operand.dstAddr.toNat main).readByte x :=
          readByte_congr (s := s.memWrite _ main) hm hdraw x
      _ = s.readByte x := readByte_memWrite_outside _ _ _ _ (by omega)
  · have hdst := hl.not_written (w := dstRegion s) (by simp [regions]) rfl hr hrd hx
    have hex := hl.not_written (w := extRegion true s) (by simp [regions]) rfl hr hrd hx
    simp only [dstRegion, extRegion] at hdst hex
    calc t.readByte x = ((s.memWrite s.operand.dstAddr.toNat main).memWrite
            s.operand.extAddr.toNat extra).readByte x :=
          readByte_congr (s := (s.memWrite _ main).memWrite _ extra) hm hdraw x
      _ = (s.memWrite s.operand.dstAddr.toNat main).readByte x :=
          readByte_memWrite_outside _ _ _ _ (by omega)
      _ = s.readByte x := readByte_memWrite_outside _ _ _ _ (by omega)

/-- Settles O29: by what a command can do, a fault, an execution fault of FR_PARSE_DOC, or a success. -/
theorem sourceIsNeverWritten : Obligations.SourceIsNeverWritten := by
  unfold Obligations.SourceIsNeverWritten
  intro i s t h r hr hrd x hlo hhi
  rcases exec_cases h with ⟨f, rfl⟩ | ⟨rfl, hl, f, rfl⟩ | hs
  · simp
  · have hdst := hl.not_written (w := dstRegion s) (by simp [regions]) rfl hr hrd ⟨hlo, hhi⟩
    simp only [dstRegion] at hdst
    rw [parseDocFault, takeFault_readByte, readByte_drawRegion, if_neg (by omega)]
  · exact hs.readByte_of_read_region hr hrd ⟨hlo, hhi⟩

end Sys2Proof.Machine
end

section
/-! SUPPORT. The decoder against the encoder and against the fields of a command word (30_encoding.md
R110 to R115), the machine on a word that is no command, and from it the two obligations. -/

namespace Sys2Proof

/-! ### Decoding is matching (30_encoding.md R111) -/

theorem decode_encode (i : Instr) : decode (encode i) = .ok i := by
  cases i <;> rfl

/-- Each row of the opcode table is a command with its own word. -/
theorem encode_of_mem_opcodeTable : ∀ row ∈ opcodeTable, encode row.2 = row.1 := by decide

theorem decode_eq_ok_iff (w : Word) (i : Instr) : decode w = .ok i ↔ encode i = w := by
  constructor
  · intro h
    unfold decode at h
    split at h
    next row hrow =>
      have hi : row.2 = i := Except.ok.inj h
      have hw : row.1 = w := by simpa using List.find?_some hrow
      rw [← hi, ← hw, encode_of_mem_opcodeTable row (List.mem_of_find?_eq_some hrow)]
    next => cases h
  · rintro rfl
    exact decode_encode i

theorem encode_injective : Function.Injective encode := fun i j h =>
  Except.ok.inj (((decode_eq_ok_iff _ i).2 h).symm.trans (decode_encode j))

/-! ### The fields of a word (30_encoding.md R110) -/

theorem CmdFields.toWord_toNat (f : CmdFields) :
    f.toWord.toNat = f.op.toNat + 256 * f.mode.toNat + 1024 * f.rsv.toNat := by
  have hop := f.op.isLt
  have hmode := f.mode.isLt
  simp only [CmdFields.toWord, BitVec.toNat_append]
  rw [← Nat.shiftLeft_add_eq_or_of_lt hmode, ← Nat.shiftLeft_add_eq_or_of_lt hop]
  simp only [Nat.shiftLeft_eq]
  omega

@[simp] theorem CmdFields.toWord_ofWord (w : Word) : (CmdFields.ofWord w).toWord = w := by
  apply BitVec.eq_of_toNat_eq
  have hw := w.isLt
  simp only [CmdFields.toWord_toNat, CmdFields.ofWord, BitVec.extractLsb'_toNat,
    Nat.shiftRight_eq_div_pow]
  omega

@[simp] theorem CmdFields.ofWord_toWord (f : CmdFields) : CmdFields.ofWord f.toWord = f := by
  have hop := f.op.isLt
  have hmode := f.mode.isLt
  have hrsv := f.rsv.isLt
  have h := f.toWord_toNat
  obtain ⟨op, mode, rsv⟩ := f
  simp only [CmdFields.ofWord, CmdFields.mk.injEq]
  refine ⟨?_, ?_, ?_⟩ <;> apply BitVec.eq_of_toNat_eq <;>
    simp only [BitVec.extractLsb'_toNat, Nat.shiftRight_eq_div_pow, h] <;> omega

theorem Instr.fields_wf (i : Instr) : i.fields.wf = true := by
  cases i <;> rfl

/-- The rows of R113, opcode by opcode: every MODE listed for a listed OP is that of a command. -/
theorem exists_fields_of_listed : ∀ n ∈ listedOps, ∀ mode : BitVec 2,
    ({ op := BitVec.ofNat 8 n, mode := mode, rsv := 0#22 } : CmdFields).modeListed = true →
      ∃ i ∈ Instr.all, i.fields = { op := BitVec.ofNat 8 n, mode := mode, rsv := 0#22 } := by
  decide

/-- The legal fields are those of the commands: each listed OP with each of its MODEs (R113). -/
theorem CmdFields.wf_iff (f : CmdFields) : f.wf = true ↔ ∃ i : Instr, i.fields = f := by
  constructor
  · intro h
    obtain ⟨op, mode, rsv⟩ := f
    simp only [CmdFields.wf, CmdFields.rsvZero, CmdFields.opListed, Bool.and_eq_true, beq_iff_eq,
      List.contains_iff_mem] at h
    obtain ⟨⟨rfl, hop⟩, hmode⟩ := h
    have hrow := exists_fields_of_listed op.toNat hop mode
    rw [BitVec.ofNat_toNat, BitVec.setWidth_eq] at hrow
    obtain ⟨i, -, hi⟩ := hrow hmode
    exact ⟨i, hi⟩
  · rintro ⟨i, rfl⟩
    exact i.fields_wf

theorem decode_isOk_iff_wf (w : Word) :
    (∃ i, decode w = .ok i) ↔ (CmdFields.ofWord w).wf = true := by
  rw [CmdFields.wf_iff]
  refine exists_congr fun i => (decode_eq_ok_iff w i).trans ⟨?_, fun h => ?_⟩
  · rintro rfl
    exact (CmdFields.ofWord_toWord i.fields).symm
  · rw [encode, h, CmdFields.toWord_ofWord]

end Sys2Proof

namespace Sys2Proof.Machine

/-! ### A word that is no command (30_encoding.md R115; 40_common.md R150) -/

theorem performWord_of_illegal {w : Word} (h : ∀ i, decode w ≠ .ok i) (s : State) :
    performWord w s = .next (s.faulted 0x01 0 0 0 0 w.toNat) := by
  unfold performWord
  cases hd : decode w with
  | ok i => exact absurd hd (h i)
  | error e => exact congrArg Host.Outcome.next (takeFault_eq_faulted (illegalCommand w) s)

/-- Settles O2: by the two directions of the match, and the fault of a word that matches no row. -/
theorem decodeIsExactMatch : Obligations.DecodeIsExactMatch := by
  unfold Obligations.DecodeIsExactMatch
  refine ⟨decode_eq_ok_iff, fun i j h => encode_injective h, fun i => ?_, fun w s h => ?_⟩
  · simp [encode, CmdFields.toWord_toNat, Instr.fields]
  · exact performWord_of_illegal (fun i hd => h i ((decode_eq_ok_iff w i).1 hd)) s

/-! ### Issue and the engine's move (40_common.md R140, R141) -/

/-- The host's write of CMD while Idle is the acceptance of the word. -/
theorem step_write_cmd {s : State} {v : Nat} {rest : List Event} (hp : s.phase = .idle)
    (hs : s.script = .bus (.write 0x010 4 v) :: rest) :
    step s = .next (recordAnswer .ok (accept (word v) { s with script := rest })) := by
  have hb : ({ s with script := rest } : State).busy = false := (busy_eq_false_iff _).2 hp
  have hcmd : Reg.ofOffset 0x010 = some .cmd := rfl
  rw [step_bus hs, hostStep, transact_reg_write _ _ (by decide) (by decide)]
  simp [writeRegOffset, hcmd, hb]

theorem step_engine_busy {s : State} {w : Word} {rest : List Event} (hp : s.phase = .busy w)
    (hs : s.script = .engine :: rest) : step s = performWord w { s with script := rest } := by
  simp only [step, hs, runEvent, engineTurn, hp]

/-- Settles O3: the legal fields are the commands', and the two steps are acceptance and the fault. -/
theorem illegalWordsAreAcceptedAndFault : Obligations.IllegalWordsAreAcceptedAndFault := by
  unfold Obligations.IllegalWordsAreAcceptedAndFault
  refine ⟨decode_isOk_iff_wf, fun w s rest hwf hp hs => ?_⟩
  have hill : ∀ i, decode w ≠ .ok i := fun i hd => by
    simp [(decode_isOk_iff_wf w).1 ⟨i, hd⟩] at hwf
  have haccept := step_write_cmd hp hs
  rw [word, BitVec.ofNat_toNat, BitVec.setWidth_eq] at haccept
  refine ⟨_, _, haccept, rfl, rfl, ?_, rfl, rfl⟩
  rw [step_engine_busy rfl rfl, performWord_of_illegal hill]

end Sys2Proof.Machine
end

section
/-! SUPPORT. Issue and the register block in any phase (40_common.md R141 to R143, R149; 10_state.md R41,
R42; 70_reset_and_hazards.md R362): what a write to CTRL, to IRQ_STATUS and, while Busy, to every other
offset leaves, and from it the obligations about them and about CMD and NOP. -/

namespace Sys2Proof.Machine

/-! ### The bits of a written value -/

theorem word_getLsbD (v : Nat) {k : Nat} (hk : k < 32) :
    (word v).getLsbD k = decide (v / 2 ^ k % 2 = 1) := by
  rw [word, BitVec.getLsbD_ofNat, decide_eq_true hk, Bool.true_and, Nat.testBit_eq_decide_div_mod_eq]

theorem not_word_getLsbD (v : Nat) {k : Nat} (hk : k < 32) :
    (!(word v).getLsbD k) = decide (v / 2 ^ k % 2 = 0) := by
  rw [word_getLsbD v hk, ← decide_not]
  exact decide_eq_decide.2 Nat.mod_two_not_eq_one

/-! ### Writes to the register block -/

theorem step_write_reg {s : State} {off v : Nat} {rest : List Event} (hal : off % 4 = 0)
    (hlt : off + 4 ≤ 0x1000) (hs : s.script = .bus (.write off 4 v) :: rest) :
    step s = .next (recordAnswer .ok (writeRegOffset off (word v) { s with script := rest })) := by
  rw [step_bus hs, hostStep, transact_reg_write _ v hal hlt]

/-- While a command is in progress BUSY_WRITE records a write, and nothing stores it; CTRL and
IRQ_STATUS alone act in that phase (40_common.md R142, R143). -/
theorem writeRegOffset_busy {off : Nat} (hctrl : off ≠ 0x02C) (hirq : off ≠ 0x030) (v : Word)
    {s : State} (hb : s.busy = true) : writeRegOffset off v s = setBusyWrite s := by
  rcases writeRegOffset_cases off v s with
    ⟨hr, -⟩ | ⟨hr, -⟩ | ⟨-, hw⟩ | ⟨hidle, -⟩ | ⟨hidle, -⟩ | ⟨hidle, -⟩
  · exact absurd (Reg.ofOffset_eq_some hr).symm hctrl
  · exact absurd (Reg.ofOffset_eq_some hr).symm hirq
  · exact hw
  all_goals exact absurd hb (by simp [hidle])

theorem writeRegOffset_ctrl (v : Word) (s : State) : writeRegOffset 0x02C v s = writeCtrl v s := rfl

theorem writeRegOffset_irqStatus (v : Word) (s : State) :
    writeRegOffset 0x030 v s = writeIrqStatus v s := rfl

theorem writeCtrl_of_softReset {v : Word} (h : v.getLsbD 1 = true) (s : State) :
    writeCtrl v s = softReset s := if_pos h

theorem writeCtrl_of_not_softReset {v : Word} (h : v.getLsbD 1 = false) (s : State) :
    writeCtrl v s = { s with
      irqEn := v.getLsbD 0
      status := { s.status with
        busyWrite := s.status.busyWrite && !v.getLsbD 2
        bufBlocked := s.status.bufBlocked && !v.getLsbD 2 } } := by
  rw [writeCtrl, if_neg (ne_true_of_eq_false h)]
  cases v.getLsbD 2 <;> simp [clearSticky]

theorem writeIrqStatus_eq (v : Word) (s : State) :
    writeIrqStatus v s = { s with donePend := s.donePend && !v.getLsbD 0 } := by
  unfold writeIrqStatus
  cases v.getLsbD 0 <;> simp

/-! ### Reset values (10_state.md R72) -/

@[simp] theorem flagBit_false (k : Nat) : flagBit k false = 0#32 := by simp [flagBit]

/-- Whatever the memory, the draws and the outside world's side are. -/
theorem resetRegs_atResetValues (s : State) : AtResetValues (resetRegs s) := by
  refine ⟨rfl, rfl, rfl, fun r hid hmem hkey => ?_, rfl, ⟨rfl, rfl, rfl, rfl⟩, rfl⟩
  cases r
  case id => exact absurd rfl hid
  case cfgMem => exact absurd rfl hmem
  case cfgKey => exact absurd rfl hkey
  case status => simp [readReg, State.statusWord, resetRegs, State.resetOf, StatusBits.zero, State.busy]
  all_goals rfl

theorem softReset_atResetValues (s : State) : AtResetValues (softReset s) :=
  resetRegs_atResetValues (abortMemory s)

theorem AtResetValues.recordAnswer {s : State} (h : AtResetValues s) (a : BusAnswer) :
    AtResetValues (recordAnswer a s) := by
  simpa [AtResetValues, State.irq] using h

theorem drawRegions_answers (rs : List Region) (s : State) :
    (drawRegions rs s).answers = s.answers := by
  induction rs generalizing s with
  | nil => rfl
  | cons r rs ih => exact ih (s.drawRegion r.addr r.len)

/-- The abort of a command draws bytes, and the answers of the host are none of them. -/
theorem abortMemory_answers (s : State) : (abortMemory s).answers = s.answers := by
  unfold abortMemory
  split
  · rfl
  · split
    · exact drawRegions_answers _ s
    · rfl

theorem softReset_answers (s : State) : (softReset s).answers = s.answers := abortMemory_answers s

/-- Settles O7: by what the register block does with a write in each case, and O12's clause for reads. -/
theorem busyRegisterWritesAreDropped : Obligations.BusyRegisterWritesAreDropped := by
  unfold Obligations.BusyRegisterWritesAreDropped
  intro s rest
  refine ⟨fun w off v hp hal hlt hctrl hirq hs => ?_, fun v hsoft hs => ?_, fun v hsoft hs => ?_,
    fun v hs => ?_, fun r hs => ?_⟩
  · have hb : ({ s with script := rest } : State).busy = true :=
      (busy_eq_true_iff _).2 (by simp [hp])
    rw [step_write_reg hal (by omega) hs, writeRegOffset_busy hctrl hirq _ hb]
    rfl
  · have hbit : (word v).getLsbD 1 = false :=
      (word_getLsbD v (by decide)).trans (decide_eq_false (by omega))
    rw [step_write_reg (by decide) (by decide) hs, writeRegOffset_ctrl,
      writeCtrl_of_not_softReset hbit, word_getLsbD v (k := 0) (by decide),
      not_word_getLsbD v (k := 2) (by decide), Nat.pow_zero, Nat.div_one]
    rfl
  · have hbit : (word v).getLsbD 1 = true :=
      (word_getLsbD v (by decide)).trans (decide_eq_true hsoft)
    rw [step_write_reg (by decide) (by decide) hs, writeRegOffset_ctrl, writeCtrl_of_softReset hbit]
    exact ⟨_, rfl, (softReset_atResetValues _).recordAnswer .ok,
      congrArg (BusAnswer.ok :: ·) (softReset_answers { s with script := rest })⟩
  · rw [step_write_reg (by decide) (by decide) hs, writeRegOffset_irqStatus, writeIrqStatus_eq,
      not_word_getLsbD v (by decide), Nat.pow_zero, Nat.div_one]
    rfl
  · obtain ⟨-, -, hread, -⟩ := registerAccess s rest
    exact hread r hs

/-! ### Issue, and NOP -/

/-- Settles O6: the step is the acceptance of the word, and the acceptance is written out. -/
theorem cmdWriteIsAccepted : Obligations.CmdWriteIsAccepted := by
  unfold Obligations.CmdWriteIsAccepted
  intro s w rest hp hs
  rw [step_write_cmd hp hs]
  rfl

theorem exec_nop (s : State) : exec .nop s = .next (s.succeeded 0 0) :=
  congrArg Host.Outcome.next (complete_eq_succeeded 0 0 s)

theorem performWord_of_decode {w : Word} {i : Instr} (h : decode w = .ok i) (s : State) :
    performWord w s = exec i s := by
  simp only [performWord, h]

theorem run_two {s s' t : State} (h : step s = .next s') (h' : step s' = .next t) :
    Sys2Proof.core.run 2 s = .next t := by
  simp only [Host.Core.run, Sys2Proof.core, h, h']

/-- Settles O33: the acceptance, then the engine's step on the word of NOP. -/
theorem nopResult : Obligations.NopResult := by
  unfold Obligations.NopResult
  refine ⟨exec_nop, fun s rest hp hs => ?_⟩
  have hdecode : decode (word 0) = .ok .nop := decode_encode .nop
  have hengine : step (recordAnswer .ok (accept (word 0) { s with script := .engine :: rest })) =
      .next (State.succeeded { recordAnswer .ok (accept (word 0) s) with script := rest } 0 0) := by
    rw [step_engine_busy (w := word 0) (rest := rest) rfl rfl, performWord_of_decode hdecode, exec_nop]
    rfl
  rw [run_two (step_write_cmd hp hs) hengine]
  rfl

end Sys2Proof.Machine
end

section
/-! SUPPORT. The framer's commands as their checks decide (41_framer.md R173, R176, R185 to R187), and from
it the obligations about FR_WRITE_CHUNK, FR_CRC_CHUNK and FR_WRITE_SIG. -/

namespace Sys2Proof.Machine

/-! ### The checks decide -/

/-- The success of a framer command is what it answers: its checks pass (40_common.md R147). -/
theorem exec_of_success {i : Instr} {s t : State} (hu : i.unit = some .frm) (h : Success i s t) :
    exec i s = .next t := by
  cases i <;> simp only [Success] at h <;> simp only [exec]
  case frReadChunk =>
    obtain ⟨hc, hl, ht, rfl⟩ := h
    refine runChecked_next.2 (.inr ⟨?_, rfl⟩)
    simp [cursorFault_eq_none_iff, regionFault_eq_none_iff, hc, hl, ht]
  case frParseDoc =>
    obtain ⟨hl, hsig, ks, hk, hi, rfl⟩ := h
    refine runChecked_next.2 (.inr ⟨?_, ?_⟩)
    · simp [regionFault_eq_none_iff, hl, hsig]
    · simp only [parseDocRun, hk, hi]
  case frCrcChunk =>
    exact runChecked_next.2 (.inr ⟨(regionFault_eq_none_iff _ s).2 h.1, h.2⟩)
  case frWriteChunkStored | frWriteChunkRecomp | frWriteChunkPlace | frWriteSig =>
    obtain ⟨hl, hfit, rfl⟩ := h
    refine runChecked_next.2 (.inr ⟨check_or_eq_none.2 ⟨?_, ?_⟩, rfl⟩)
    · exact (regionFault_eq_none_iff _ s).2 hl
    · exact (dstOverflowFault_eq_none_iff _ s).2 hfit
  all_goals cases hu

/-- The first failing check is the fault that the command answers. -/
theorem runChecked_of_some {check : Option CmdFault} {f : CmdFault} (h : check = some f)
    (effect : State → State) (s : State) :
    runChecked check effect s =
      .next (s.faulted f.code.num f.sub f.index f.offset f.expected f.actual) := by
  rw [h, ← takeFault_eq_faulted]
  rfl

/-- With the regions legal, the checks after the region checks decide. -/
theorem regionFault_or {i : Instr} {s : State} (h : RegionsLegal i s) (check : Option CmdFault) :
    (regionFault i s <|> check) = check := by
  simp [(regionFault_eq_none_iff i s).2 h]

theorem regionFault_or_dstOverflow {i : Instr} {n : Nat} {s : State} (h : RegionsLegal i s)
    (hover : s.operand.dstLen.toNat < n) :
    (regionFault i s <|> dstOverflowFault n s) = some
      { code := .dstOverflow, sub := 1, expected := n, actual := s.operand.dstLen.toNat } :=
  (regionFault_or h _).trans (if_pos hover)

/-! ### What the outputs read as -/

theorem complete_memWrite_storedExactly (l e : Nat) (s : State) (a : Nat) (bs : Bytes) :
    StoredExactly s (complete l e (s.memWrite a bs)) a bs := readByte_memWrite s a bs

/-- A record at DST, its four fields written out (41_framer.md R185). -/
theorem writeRecord_storedExactly (crc : Word) (s : State) :
    StoredExactly s (writeRecord crc s) s.operand.dstAddr.toNat
      (beBytes 4 s.framer.chLen.toNat ++ beBytes 4 s.framer.chType.toNat ++
        s.memRead s.operand.srcAddr.toNat s.framer.chLen.toNat ++ beBytes 4 crc.toNat) := by
  have hrecord : beBytes 4 s.framer.chLen.toNat ++ beBytes 4 s.framer.chType.toNat ++
      s.memRead s.operand.srcAddr.toNat s.framer.chLen.toNat ++ beBytes 4 crc.toNat =
      recordBytes s.typeBytes s.dataBytes crc := by
    simp [recordBytes, State.typeBytes, State.dataBytes]
  rw [hrecord]
  exact complete_memWrite_storedExactly _ _ _ _ _

/-! ### The commands that take no stream -/

/-- Settles O40: the checks of the three commands are the same, and each success stores the record with
its own CRC field. -/
theorem writeChunkResult : Obligations.WriteChunkResult := by
  unfold Obligations.WriteChunkResult
  refine fun s => ⟨?_, fun hl hfit => ?_, fun hl hfit crc hcrc => ?_, fun hl hfit => ?_, ?_⟩
  · rintro i (rfl | rfl | rfl) <;> exact regionsReported trivial
  · exact ⟨_, exec_of_success rfl ⟨hl, hfit, rfl⟩, rfl, writeRecord_storedExactly s.framer.chCrc s⟩
  · subst hcrc
    exact ⟨_, exec_of_success rfl ⟨hl, hfit, rfl⟩, rfl, writeRecord_storedExactly s.chunkCrc s⟩
  · exact ⟨_, exec_of_success rfl ⟨hl, hfit, rfl⟩, rfl,
      writeRecord_storedExactly s.framer.crcPlaceholder s⟩
  · rintro i (rfl | rfl | rfl) hl hover <;> simp only [exec] <;>
      exact runChecked_of_some (regionFault_or_dstOverflow hl hover) _ s

/-- Settles O41: the region check is the command's only one, and the flag compares CH_CRC. -/
theorem crcChunkResult : Obligations.CrcChunkResult := by
  unfold Obligations.CrcChunkResult
  refine fun s => ⟨regionsReported trivial, ?_⟩
  rintro hl crc rfl
  rw [← beq_eq_decide]
  exact exec_of_success rfl ⟨hl, rfl⟩

/-- Settles O42: after the region check, DST_LEN alone decides between the fault and the store. -/
theorem writeSigResult : Obligations.WriteSigResult := by
  unfold Obligations.WriteSigResult
  refine fun s => ⟨regionsReported trivial, fun hl => ⟨fun hfit => ?_, fun hover => ?_⟩⟩
  · exact ⟨_, exec_of_success rfl ⟨hl, hfit, rfl⟩, rfl,
      complete_memWrite_storedExactly 8 0 s s.operand.dstAddr.toNat signature⟩
  · simp only [exec]
    exact runChecked_of_some (regionFault_or_dstOverflow hl hover) _ s

end Sys2Proof.Machine
end

section
/-! SUPPORT. The bits of DOC_FLAGS (41_framer.md R183): what a flag bit is at each place, when the places of
a tag are consecutive, and from it the obligation. -/

namespace Sys2Proof.Machine

theorem flagBit_getLsbD (k : Nat) (b : Bool) (j : Nat) :
    (flagBit k b).getLsbD j = (decide (j < 32) && decide (j = k) && b) := by
  unfold flagBit
  rw [BitVec.getLsbD_shiftLeft, BitVec.getLsbD_setWidth, BitVec.getLsbD_ofBool]
  rcases lt_trichotomy j k with h | rfl | h
  · simp [h, h.ne]
  · simp
  · simp [h.ne', Nat.sub_ne_zero_of_lt h]

/-- A run of the tag and then none of it: every place before an occurrence is one too. -/
theorem dropWhile_tag_all_iff (tag : Bytes) (types : List Bytes) :
    (types.dropWhile (· == tag)).all (· != tag) = true ↔
      ∀ j k : Nat, j < k → types[k]? = some tag → types[j]? = some tag := by
  induction types with
  | nil => simp
  | cons x types ih =>
    by_cases hx : x = tag
    · subst hx
      rw [List.dropWhile_cons_of_pos (by simp), ih]
      constructor
      · intro h j k hjk hk
        obtain ⟨k, rfl⟩ := Nat.exists_eq_succ_of_ne_zero (Nat.ne_zero_of_lt hjk)
        cases j with
        | zero => rfl
        | succ j => exact h j k (by omega) hk
      · exact fun h j k hjk hk => h (j + 1) (k + 1) (by omega) hk
    · rw [List.dropWhile_cons_of_neg (by simpa using hx)]
      constructor
      · intro h j k _ hk
        have hne : (tag != tag) = true := List.all_eq_true.1 h tag (List.mem_of_getElem? hk)
        simp at hne
      · intro h
        refine List.all_eq_true.2 fun y hy => ?_
        rcases List.mem_cons.1 hy with rfl | hy
        · simpa using hx
        · obtain ⟨k, hk⟩ := List.mem_iff_getElem?.1 hy
          refine bne_iff_ne.2 fun hyt => hx ?_
          simpa using h 0 (k + 1) (by omega) (hyt ▸ hk)

/-- The places of a tag are consecutive: whatever is between two of them is one (41_framer.md R183). -/
theorem tagContiguous_iff (tag : Bytes) (types : List Bytes) :
    tagContiguous tag types = true ↔
      ∀ i j k : Nat, i < j → j < k → types[i]? = some tag → types[k]? = some tag →
        types[j]? = some tag := by
  unfold tagContiguous
  induction types with
  | nil => simp
  | cons x types ih =>
    by_cases hx : x = tag
    · rw [List.dropWhile_cons_of_neg (by simpa using hx), dropWhile_tag_all_iff]
      constructor
      · exact fun h i j k _ hjk _ hk => h j k hjk hk
      · intro h j k hjk hk
        cases j with
        | zero => simp [hx]
        | succ j => exact h 0 (j + 1) k (by omega) hjk (by simp [hx]) hk
    · rw [List.dropWhile_cons_of_pos (by simpa using hx), ih]
      constructor
      · intro h i j k hij hjk hi hk
        obtain ⟨j, rfl⟩ := Nat.exists_eq_succ_of_ne_zero (Nat.ne_zero_of_lt hij)
        obtain ⟨k, rfl⟩ := Nat.exists_eq_succ_of_ne_zero (Nat.ne_zero_of_lt hjk)
        cases i with
        | zero => exact absurd (by simpa using hi) hx
        | succ i => exact h i j k (by omega) (by omega) hi hk
      · exact fun h i j k hij hjk hi hk => h (i + 1) (j + 1) (k + 1) (by omega) (by omega) hi hk

/-- The length of the last chunk, which a document has (41_framer.md R183). -/
theorem getLastD_ne_zero_iff {lens : List Nat} (h : lens ≠ []) :
    lens.getLastD 0 ≠ 0 ↔ lens[lens.length - 1]? ≠ some 0 := by
  rw [← List.getLast?_eq_getElem?, List.getLastD_eq_getLast?, List.getLast?_eq_some_getLast h]
  simp

/-- Settles O37: each bit is its own flag, and the others are 0. -/
theorem docFlagsBits : Obligations.DocFlagsBits := by
  unfold Obligations.DocFlagsBits
  intro types lens bad hne hlen
  have hlens : lens ≠ [] := List.ne_nil_of_length_pos (hlen ▸ List.length_pos_iff.2 hne)
  have hlast := getLastD_ne_zero_iff hlens
  rw [hlen] at hlast
  simp only [docFlags, BitVec.getLsbD_or, flagBit_getLsbD]
  refine ⟨?_, ?_, ?_, ?_, ?_, ?_, ?_, ?_, fun k hk => ?_⟩
  · simp [List.head?_eq_getElem?]
  · simp
  · simp
  · simp
  · simp
  · simp [tagContiguous_iff]
  · simpa using hlast
  · simp
  · simp
    omega

end Sys2Proof.Machine
end

section
/-! SUPPORT. Records in the source region (41_framer.md R172 to R174): what SRC holds at an offset, the
record framed there, the truncation checks, and from it the obligation about FR_READ_CHUNK. -/

namespace Sys2Proof.Machine

/-! ### What SRC holds -/

/-- The bytes `bs` stand in SRC at offset `pos`. -/
def State.SrcHolds (s : State) (pos : Nat) (bs : Bytes) : Prop :=
  pos + bs.length ≤ s.operand.srcLen.toNat ∧ s.memRead (s.operand.srcAddr.toNat + pos) bs.length = bs

theorem srcHolds_append (s : State) (pos : Nat) (as bs : Bytes) :
    s.SrcHolds pos (as ++ bs) ↔ s.SrcHolds pos as ∧ s.SrcHolds (pos + as.length) bs := by
  unfold State.SrcHolds
  rw [List.length_append, memRead_add, ← Nat.add_assoc, ← Nat.add_assoc]
  constructor
  · rintro ⟨hlen, hread⟩
    obtain ⟨has, hbs⟩ := List.append_inj hread (memRead_length _ _ _)
    exact ⟨⟨by omega, has⟩, hlen, hbs⟩
  · rintro ⟨⟨-, has⟩, hlen, hbs⟩
    exact ⟨hlen, by rw [has, hbs]⟩

theorem srcHolds_of_srcBytes {s : State} {bs : Bytes} (h : s.srcBytes = bs) :
    s.SrcHolds 0 bs ∧ bs.length = s.operand.srcLen.toNat := by
  subst h
  rw [State.SrcHolds, srcBytes_length]
  exact ⟨⟨by omega, rfl⟩, rfl⟩

theorem State.SrcHolds.take {s : State} {pos n : Nat} {bs : Bytes} (h : s.SrcHolds pos bs)
    (hn : n ≤ bs.length) : s.memRead (s.operand.srcAddr.toNat + pos) n = bs.take n := by
  rw [← List.take_append_drop n bs, srcHolds_append] at h
  obtain ⟨⟨-, hread⟩, -⟩ := h
  rwa [List.length_take, Nat.min_eq_left hn] at hread

/-! ### The truncation checks (41_framer.md R174) -/

theorem truncationFault_eq_none {s : State} (i : Nat) {c : Nat}
    (h : c + 12 + s.lengthField c ≤ s.operand.srcLen.toNat) : truncationFault s i c = none := by
  simp only [truncationFault]
  rw [if_neg (by omega), if_neg (by omega), if_neg (by omega), if_neg (by omega)]

/-- Each failing check with its detail, for a record at offset `c` with `r` bytes left. -/
theorem truncationFault_report {s : State} (i : Nat) {c r : Nat}
    (h : c + r = s.operand.srcLen.toNat) :
    TruncationOutcome r (s.lengthField c) fun sub expected actual =>
      truncationFault s i c = some
        { code := .truncatedChunk, sub := sub, index := i, offset := c, expected := expected,
          actual := actual } := by
  have hr : s.operand.srcLen.toNat - c = r := by omega
  simp only [TruncationOutcome, truncationFault, hr]
  refine ⟨fun h0 => ?_, fun h0 h1 => ?_, fun h0 h1 => ?_, fun h0 h1 h2 => ?_⟩
  · rw [if_pos h0]
  · rw [if_neg (by omega), if_pos (by omega)]
  · rw [if_neg (by omega), if_neg (by omega), if_pos h1]
  · rw [if_neg (by omega), if_neg (by omega), if_neg (by omega), if_pos h2]

/-- The checks read the length field only when the stream holds it and the type field. -/
theorem TruncationOutcome.imp {r len len' : Nat} {P Q : Nat → Nat → Nat → Prop}
    (h : TruncationOutcome r len P) (hlen : 8 ≤ r → len = len')
    (hPQ : ∀ sub expected actual, P sub expected actual → Q sub expected actual) :
    TruncationOutcome r len' Q := by
  obtain ⟨hlength, htype, hdata, hcrc⟩ := h
  refine ⟨fun h0 => hPQ _ _ _ (hlength h0), fun h0 h1 => hPQ _ _ _ (htype h0 h1),
    fun h0 h1 => ?_, fun h0 h1 h2 => ?_⟩ <;> obtain rfl := hlen h0
  · exact hPQ _ _ _ (hdata h0 h1)
  · exact hPQ _ _ _ (hcrc h0 h1 h2)

/-! ### The record framed at an offset (41_framer.md R172, R173) -/

/-- What the framer takes from the record of a chunk at offset `pos`. -/
def DocChunk.framedAt (k : DocChunk) (pos : Nat) : Chunk :=
  { pos := pos, len := k.data.length, type := k.type, crc := k.crc,
    computed := crc32 (k.type ++ k.data) }

/-- A chunk's CRC matches unless it is bad (41_framer.md R175). -/
theorem DocChunk.framedAt_crc_beq (k : DocChunk) (pos : Nat) :
    ((k.framedAt pos).crc == (k.framedAt pos).computed) = !k.bad := by
  simp [DocChunk.framedAt, DocChunk.bad, bne]

section Record

variable {s : State} {k : DocChunk} {pos : Nat}

theorem DocChunk.image_length (htype : k.type.length = 4) :
    k.image.length = 12 + k.data.length := by
  simp [DocChunk.image, htype]
  omega

theorem chunkAt_of_image (htype : k.type.length = 4) (h : s.SrcHolds pos k.image) :
    s.chunkAt pos = k.framedAt pos := by
  have hfits : k.data.length < 256 ^ 4 := by
    have hlen := h.1
    have hsrc := s.operand.srcLen.isLt
    rw [DocChunk.image_length htype] at hlen
    omega
  simp only [DocChunk.image, srcHolds_append, List.length_append, beBytes_length, htype,
    Nat.reduceAdd] at h
  obtain ⟨⟨⟨⟨-, hlen⟩, -, htag⟩, -, hdata⟩, -, hcrc⟩ := h
  rw [beBytes_length] at hlen hcrc
  rw [htype] at htag
  have hfield : s.lengthField pos = k.data.length := by
    rw [State.lengthField, State.memReadBE, hlen, fromBE_beBytes, Nat.mod_eq_of_lt hfits]
  have hstored : word (fromBE (beBytes 4 k.crc.toNat)) = k.crc := by
    rw [fromBE_beBytes, Nat.mod_eq_of_lt (b := 256 ^ 4) k.crc.isLt, word, BitVec.ofNat_toNat,
      BitVec.setWidth_eq]
  simp only [State.chunkAt, DocChunk.framedAt, State.memReadBE, hfield, Nat.add_assoc, htag, hdata,
    hcrc, hstored]

theorem truncationFault_of_image (i : Nat) (htype : k.type.length = 4)
    (h : s.SrcHolds pos k.image) : truncationFault s i pos = none := by
  have hfield : s.lengthField pos = k.data.length := congrArg Chunk.len (chunkAt_of_image htype h)
  have hlen := h.1
  rw [DocChunk.image_length htype] at hlen
  exact truncationFault_eq_none i (by omega)

end Record

/-! ### FR_READ_CHUNK (41_framer.md R173, R174) -/

/-- With its earlier checks passed, FR_READ_CHUNK reports the truncation of its record. -/
theorem exec_frReadChunk_truncated {s : State} {c r : Nat} (hl : RegionsLegal .frReadChunk s)
    (hc : c = s.framer.cursor.toNat) (hr : c + r = s.operand.srcLen.toNat) :
    TruncationOutcome r (fromBE (s.memRead (s.operand.srcAddr.toNat + c) 4)) fun sub expected actual =>
      exec .frReadChunk s = .next (s.faulted 0x08 sub 0 c expected actual) := by
  refine (truncationFault_report 0 hr).imp (fun _ => rfl) fun sub expected actual hf => ?_
  have hcursor : cursorFault s = none := (cursorFault_eq_none_iff s).2 (by omega)
  have hcheck : (cursorFault s <|> regionFault .frReadChunk s <|>
      truncationFault s 0 s.framer.cursor.toNat) = some
        { code := .truncatedChunk, sub := sub, index := 0, offset := c, expected := expected,
          actual := actual } := by
    rw [regionFault_or hl, hcursor, ← hc, hf]
    rfl
  simp only [exec]
  exact runChecked_of_some hcheck _ s

/-- Settles O34: the checks in their order, and on a whole record the chunk framed at the cursor. -/
theorem readChunkResult : Obligations.ReadChunkResult := by
  unfold Obligations.ReadChunkResult
  rintro s c rfl
  refine ⟨fun hpast => ?_, regionsReported, fun hl r hr => exec_frReadChunk_truncated hl rfl hr,
    fun hl k htype hfits hread => ?_⟩
  · simp only [exec]
    exact runChecked_of_some (check_or_eq_some.2 (.inl (if_pos hpast))) _ s
  · rw [← DocChunk.image_length htype] at hread
    have himage : s.SrcHolds s.framer.cursor.toNat k.image :=
      ⟨by rw [DocChunk.image_length htype]; omega, hread⟩
    have hsuccess := exec_of_success (i := .frReadChunk) (s := s) rfl
      ⟨by omega, hl, truncationFault_of_image 0 htype himage, rfl⟩
    rw [hsuccess, readChunkEffect, chunkAt_of_image htype himage, k.framedAt_crc_beq]
    rfl

end Sys2Proof.Machine
end

section
/-! SUPPORT. FR_PARSE_DOC (41_framer.md R176 to R184): its signature check, the chunk loop on the records
of a document, what its faults leave, and from it the obligations about the command. -/

namespace Sys2Proof.Machine

/-! ### The signature check (41_framer.md R177) -/

theorem signatureFault_of_short {s : State} (h : s.operand.srcLen.toNat < 8) :
    signatureFault s = some
      { code := .badSignature, sub := 0, expected := 8, actual := s.operand.srcLen.toNat } := if_pos h

/-- The first byte that is not the signature's is the one reported. -/
theorem signatureFault_of_mismatch {s : State} (h : 8 ≤ s.operand.srcLen.toNat) {j : Nat} (hj : j < 8)
    (hbefore : ∀ k, k < j → s.readByte (s.operand.srcAddr.toNat + k) = signature.getD k 0#8)
    (hne : s.readByte (s.operand.srcAddr.toNat + j) ≠ signature.getD j 0#8) :
    signatureFault s = some
      { code := .badSignature, sub := 1, offset := j, expected := (signature.getD j 0#8).toNat,
        actual := (s.readByte (s.operand.srcAddr.toNat + j)).toNat } := by
  have hrange : List.range 8 = List.range j ++ j :: List.range' (j + 1) (7 - j) := by
    have h8 : 8 = j + (7 - j + 1) := by omega
    calc List.range 8 = List.range' 0 (j + (7 - j + 1)) := by rw [← h8, List.range_eq_range']
      _ = List.range' 0 j ++ List.range' (0 + j) (7 - j + 1) := List.range'_append_1.symm
      _ = _ := by rw [Nat.zero_add, List.range'_succ, List.range_eq_range']
  rw [signatureFault, if_neg (by omega), List.findSome?_eq_some_iff]
  refine ⟨_, j, _, hrange, if_neg hne, fun k hk => ?_⟩
  exact if_pos (hbefore k (List.mem_range.1 hk))

theorem signatureFault_eq_none {s : State} (h : s.SrcHolds 0 signature) : signatureFault s = none := by
  obtain ⟨hlen, hread⟩ := h
  rw [signature_length] at hlen hread
  rw [signatureFault, if_neg (by omega), List.findSome?_eq_none_iff]
  intro j hj
  have hbyte := memRead_getD s s.operand.srcAddr.toNat 8 j (List.mem_range.1 hj)
  rw [Nat.add_zero] at hread
  rw [hread] at hbyte
  exact if_pos hbyte.symm

/-- Settles O38: with the regions legal the signature check decides. -/
theorem signatureFaults : Obligations.SignatureFaults := by
  unfold Obligations.SignatureFaults
  refine fun s hl => ⟨fun hshort => ?_, fun hlen j hj hbefore hne => ?_⟩ <;> simp only [exec]
  · exact runChecked_of_some ((regionFault_or hl _).trans (signatureFault_of_short hshort)) _ s
  · exact runChecked_of_some
      ((regionFault_or hl _).trans (signatureFault_of_mismatch hlen hj hbefore hne)) _ s

/-! ### The chunks of a document -/

@[simp] theorem docImage_append (ks ls : List DocChunk) :
    docImage (ks ++ ls) = docImage ks ++ docImage ls := List.flatMap_append

@[simp] theorem docImage_singleton (k : DocChunk) : docImage [k] = k.image := List.flatMap_singleton _ _

theorem docImage_cons_length {k : DocChunk} (hk : k.type.length = 4) (ks : List DocChunk) :
    (docImage (k :: ks)).length = 12 + k.data.length + (docImage ks).length := by
  rw [docImage, List.flatMap_cons, List.length_append, DocChunk.image_length hk]
  rfl

theorem length_le_docImage_length {ks : List DocChunk} (htypes : TypesLegal ks) :
    ks.length ≤ (docImage ks).length := by
  induction ks with
  | nil => simp
  | cons k ks ih =>
    have := ih fun q hq => htypes q (by simp [hq])
    rw [docImage_cons_length (htypes k (by simp)), List.length_cons]
    omega

/-- What the chunk loop takes from records that start at offset `pos` (41_framer.md R178). -/
def framedChunks : Nat → List DocChunk → List Chunk
  | _, [] => []
  | pos, k :: ks => k.framedAt pos :: framedChunks (pos + 12 + k.data.length) ks

@[simp] theorem framedChunks_length (pos : Nat) (ks : List DocChunk) :
    (framedChunks pos ks).length = ks.length := by
  induction ks generalizing pos with
  | nil => rfl
  | cons k ks ih => simp [framedChunks, ih]

@[simp] theorem framedChunks_types (pos : Nat) (ks : List DocChunk) :
    (framedChunks pos ks).map (·.type) = ks.map (·.type) := by
  induction ks generalizing pos with
  | nil => rfl
  | cons k ks ih => simp [framedChunks, ih, DocChunk.framedAt]

@[simp] theorem framedChunks_lens (pos : Nat) (ks : List DocChunk) :
    (framedChunks pos ks).map (·.len) = ks.map (·.data.length) := by
  induction ks generalizing pos with
  | nil => rfl
  | cons k ks ih => simp [framedChunks, ih, DocChunk.framedAt]

@[simp] theorem framedChunks_descriptors (pos : Nat) (ks : List DocChunk) :
    (framedChunks pos ks).flatMap descriptorBytes = descriptorTable pos ks := by
  induction ks generalizing pos with
  | nil => rfl
  | cons k ks ih =>
    simp [framedChunks, descriptorTable, ih, descriptorBytes, DocChunk.framedAt]

@[simp] theorem badCrcCount_framedChunks (pos : Nat) (ks : List DocChunk) :
    badCrcCount (framedChunks pos ks) = ks.countP DocChunk.bad := by
  unfold badCrcCount
  induction ks generalizing pos with
  | nil => rfl
  | cons k ks ih => simp [framedChunks, List.countP_cons, ih, DocChunk.framedAt, DocChunk.bad]

theorem framedChunks_append_singleton (pos : Nat) {ks : List DocChunk} (htypes : TypesLegal ks)
    (k : DocChunk) :
    framedChunks pos (ks ++ [k]) = framedChunks pos ks ++ [k.framedAt (pos + (docImage ks).length)] := by
  induction ks generalizing pos with
  | nil => rfl
  | cons q ks ih =>
    rw [docImage_cons_length (htypes q (by simp)), List.cons_append, framedChunks, framedChunks,
      ih _ fun r hr => htypes r (by simp [hr])]
    simp [Nat.add_assoc]

/-- The offset after the last record. -/
theorem endOffset_framedChunks (pos : Nat) {ks : List DocChunk} (htypes : TypesLegal ks) {k : DocChunk}
    (hk : k.type.length = 4) :
    endOffset (framedChunks pos (ks ++ [k])) = pos + (docImage (ks ++ [k])).length := by
  simp [framedChunks_append_singleton pos htypes k, endOffset, DocChunk.framedAt,
    DocChunk.image_length hk]
  omega

/-- A document with an IHDR passes the check after the loop, another one does not (41_framer.md R182). -/
theorem requireIhdr_framedChunks (pos : Nat) (ks : List DocChunk) :
    requireIhdr (framedChunks pos ks) =
      if ∃ k ∈ ks, k.type = tagIHDR then .ok (framedChunks pos ks)
      else .error (missingIhdr ks.length) := by
  have hany : (framedChunks pos ks).any (fun k => k.type == tagIHDR) = true ↔
      ∃ k ∈ ks, k.type = tagIHDR := by
    have htypes : (framedChunks pos ks).any (fun k => k.type == tagIHDR) =
        ((framedChunks pos ks).map (·.type)).any (· == tagIHDR) := by
      rw [List.any_map]
      rfl
    rw [htypes, framedChunks_types]
    simp
  simp only [requireIhdr, hany, framedChunks_length]

/-! ### The chunk loop on the records of a document (41_framer.md R178, R179) -/

/-- One round on a whole record with room for its descriptor. -/
theorem parseLoop_record {s : State} {k : DocChunk} {pos : Nat} {done : List Chunk}
    (htype : k.type.length = 4) (himage : s.SrcHolds pos k.image)
    (hroom : 16 * (done.length + 1) ≤ s.operand.dstLen.toNat) (fuel : Nat) :
    parseLoop s (fuel + 1) pos done =
      if k.type = tagIEND then .ok (done ++ [k.framedAt pos])
      else parseLoop s fuel (pos + 12 + k.data.length) (done ++ [k.framedAt pos]) := by
  have hlen := himage.1
  rw [DocChunk.image_length htype] at hlen
  rw [parseLoop, if_neg (by omega), truncationFault_of_image _ htype himage]
  simp only [chunkAt_of_image htype himage]
  rw [if_neg (by omega)]
  rfl

/-- The rounds on records none of which is the IEND. -/
theorem parseLoop_records {s : State} {ks : List DocChunk} {pos : Nat} {done : List Chunk}
    (htypes : TypesLegal ks) (hiend : ∀ k ∈ ks, k.type ≠ tagIEND)
    (himage : s.SrcHolds pos (docImage ks))
    (hroom : 16 * (done.length + ks.length) ≤ s.operand.dstLen.toNat) (fuel : Nat) :
    parseLoop s (fuel + ks.length) pos done =
      parseLoop s fuel (pos + (docImage ks).length) (done ++ framedChunks pos ks) := by
  induction ks generalizing pos done with
  | nil => simp [docImage, framedChunks]
  | cons k ks ih =>
    have htype := htypes k (by simp)
    have himages : s.SrcHolds pos (k.image ++ docImage ks) := himage
    obtain ⟨hfirst, hrest⟩ := (srcHolds_append _ _ _ _).1 himages
    rw [DocChunk.image_length htype, ← Nat.add_assoc] at hrest
    rw [List.length_cons] at hroom ⊢
    rw [← Nat.add_assoc, parseLoop_record htype hfirst (by omega), if_neg (hiend k (by simp)),
      ih (fun q hq => htypes q (by simp [hq])) (fun q hq => hiend q (by simp [hq])) hrest
        (by simp; omega), docImage_cons_length htype]
    simp [framedChunks, Nat.add_assoc]

/-- The stream ends where a record would start (41_framer.md R181). -/
theorem parseLoop_end (s : State) (fuel : Nat) (done : List Chunk) :
    parseLoop s (fuel + 1) s.operand.srcLen.toNat done =
      .error (missingIend done.length s.operand.srcLen.toNat) := by
  rw [parseLoop, if_pos rfl]

theorem parseLoop_truncated {s : State} {pos : Nat} {done : List Chunk} {f : CmdFault}
    (hpos : pos ≠ s.operand.srcLen.toNat) (hf : truncationFault s done.length pos = some f)
    (fuel : Nat) : parseLoop s (fuel + 1) pos done = .error f := by
  rw [parseLoop, if_neg hpos, hf]

/-- A whole record whose descriptor does not fit the table (41_framer.md R178). -/
theorem parseLoop_overflow {s : State} {k : DocChunk} {pos : Nat} {done : List Chunk}
    (htype : k.type.length = 4) (himage : s.SrcHolds pos k.image)
    (hover : s.operand.dstLen.toNat < 16 * (done.length + 1)) (fuel : Nat) :
    parseLoop s (fuel + 1) pos done = .error (tableOverflow s done.length pos) := by
  have hlen := himage.1
  rw [DocChunk.image_length htype] at hlen
  rw [parseLoop, if_neg (by omega), truncationFault_of_image _ htype himage]
  simp only
  rw [if_pos hover]

/-- A stream of the signature, the records `ks`, none of them the IEND, and `rest`, with room for the
descriptors of `ks`. -/
structure StreamOf (s : State) (ks : List DocChunk) (rest : Bytes) : Prop where
  types : TypesLegal ks
  no_iend : ∀ k ∈ ks, k.type ≠ tagIEND
  room : 16 * ks.length ≤ s.operand.dstLen.toNat
  bytes : s.srcBytes = signature ++ docImage ks ++ rest

namespace StreamOf

variable {s : State} {ks : List DocChunk} {rest : Bytes}

theorem srcLen_eq (h : StreamOf s ks rest) :
    8 + (docImage ks).length + rest.length = s.operand.srcLen.toNat := by
  have hlen := (srcHolds_of_srcBytes h.bytes).2
  rwa [List.length_append, List.length_append, signature_length] at hlen

theorem srcHolds (h : StreamOf s ks rest) :
    s.SrcHolds 0 signature ∧ s.SrcHolds 8 (docImage ks) ∧
      s.SrcHolds (8 + (docImage ks).length) rest := by
  obtain ⟨hholds, -⟩ := srcHolds_of_srcBytes h.bytes
  rw [srcHolds_append, srcHolds_append] at hholds
  obtain ⟨⟨hsig, himages⟩, hrest⟩ := hholds
  rw [List.length_append, Nat.zero_add] at hrest
  exact ⟨hsig, himages, hrest⟩

/-- The loop comes to what follows the records, and has not used up its fuel there. -/
theorem parseChunks_eq (h : StreamOf s ks rest) :
    ∃ fuel, parseChunks s = parseLoop s (fuel + 1) (8 + (docImage ks).length) (framedChunks 8 ks) := by
  obtain ⟨-, himages, -⟩ := h.srcHolds
  have hlen := h.srcLen_eq
  have hrounds := length_le_docImage_length h.types
  refine ⟨s.operand.srcLen.toNat - ks.length, ?_⟩
  have hfuel : s.operand.srcLen.toNat + 1 = s.operand.srcLen.toNat - ks.length + 1 + ks.length := by
    omega
  rw [parseChunks, hfuel,
    parseLoop_records h.types h.no_iend himages (by simpa using h.room) _, List.nil_append]

/-- The chunks of a document, which its first IEND ends (41_framer.md R179). -/
theorem parseChunks_of_iend {last : DocChunk} {trail : Bytes} (h : StreamOf s ks (last.image ++ trail))
    (hlast : last.type = tagIEND) (hroom : 16 * (ks.length + 1) ≤ s.operand.dstLen.toNat) :
    parseChunks s = .ok (framedChunks 8 (ks ++ [last])) := by
  obtain ⟨-, -, hrest⟩ := h.srcHolds
  obtain ⟨fuel, hloop⟩ := h.parseChunks_eq
  have htype : last.type.length = 4 := by rw [hlast]; rfl
  rw [hloop, parseLoop_record htype ((srcHolds_append _ _ _ _).1 hrest).1 (by simpa using hroom),
    if_pos hlast, framedChunks_append_singleton 8 h.types]

end StreamOf

/-! ### Outcomes -/

/-- With its validation checks passed, FR_PARSE_DOC runs its loop (41_framer.md R176). -/
theorem exec_frParseDoc {s : State} (hl : RegionsLegal .frParseDoc s) (hsig : s.SrcHolds 0 signature) :
    exec .frParseDoc s = .next (parseDocRun s) := by
  simp only [exec]
  refine runChecked_next.2 (.inr ⟨?_, rfl⟩)
  rw [regionFault_or hl, signatureFault_eq_none hsig]

/-- What a success writes, in the words of the document (41_framer.md R180, R183, R184). -/
theorem parseDocEffect_framedChunks (ks : List DocChunk) (s : State) :
    parseDocEffect (framedChunks 8 ks) s =
      ({ s with
          mem := s.mem.write s.operand.dstAddr.toNat (descriptorTable 8 ks)
          framer := { s.framer with
            docNchunks := word ks.length
            docTrailOff := word (endOffset (framedChunks 8 ks))
            docTrailLen := word (s.operand.srcLen.toNat - endOffset (framedChunks 8 ks))
            docFlags := docFlags (ks.map (·.type)) (ks.map (·.data.length)) (ks.countP DocChunk.bad)
            docCrcBad := word (ks.countP DocChunk.bad) }
          status := { s.status with
            crcMatch := decide (ks.countP DocChunk.bad = 0) } } : State).succeeded
        (16 * ks.length) 0 := by
  simp only [parseDocEffect, framedChunks_descriptors, framedChunks_length, framedChunks_types,
    framedChunks_lens, badCrcCount_framedChunks, beq_eq_decide]
  rfl

/-- Success or fault, FR_PARSE_DOC writes no byte outside DST (41_framer.md R176). -/
theorem frParseDoc_unchangedOutside {s t : State} (h : exec .frParseDoc s = .next t) :
    UnchangedOutside s t s.operand.dstAddr.toNat s.operand.dstLen.toNat := by
  intro x hx
  rcases exec_cases h with ⟨f, rfl⟩ | ⟨-, -, f, rfl⟩ | ⟨-, -, ks, hk, -, rfl⟩
  · simp
  · rw [parseDocFault, takeFault_readByte, readByte_drawRegion, if_neg (by omega)]
  · obtain ⟨hlen, hroom, -⟩ := parseChunks_ok hk
    exact readByte_memWrite_outside _ _ _ _ (by omega)

theorem parseDocFault_eq_faulted (f : CmdFault) (s : State) :
    parseDocFault f s =
      ({ s with mem := (parseDocFault f s).mem, draws := (parseDocFault f s).draws } : State).faulted
        f.code.num f.sub f.index f.offset f.expected f.actual :=
  takeFault_eq_faulted f (s.drawRegion s.operand.dstAddr.toNat s.operand.dstLen.toNat)

theorem parseDocRun_of_error {s : State} {f : CmdFault} (h : parseChunks s = .error f) :
    parseDocRun s = parseDocFault f s := by
  simp only [parseDocRun, h]

theorem parseDocRun_of_missing_ihdr {s : State} {ks : List DocChunk}
    (h : parseChunks s = .ok (framedChunks 8 ks)) (hihdr : ∀ k ∈ ks, k.type ≠ tagIHDR) :
    parseDocRun s = parseDocFault (missingIhdr ks.length) s := by
  have hnone : ¬ ∃ k ∈ ks, k.type = tagIHDR := fun ⟨k, hk, ht⟩ => hihdr k hk ht
  simp only [parseDocRun, h, requireIhdr_framedChunks, if_neg hnone]

/-- An execution fault: DST may change, and the report is that of the fault (60_exceptions.md R322). -/
theorem exec_frParseDoc_of_fault {s : State} {f : CmdFault} (hl : RegionsLegal .frParseDoc s)
    (hsig : s.SrcHolds 0 signature) (hf : parseDocRun s = parseDocFault f s) :
    ∃ t, exec .frParseDoc s = .next t ∧
      UnchangedOutside s t s.operand.dstAddr.toNat s.operand.dstLen.toNat ∧
      t = ({ s with mem := t.mem, draws := t.draws } : State).faulted f.code.num f.sub f.index f.offset
        f.expected f.actual := by
  have hexec := exec_frParseDoc hl hsig
  rw [hf] at hexec
  exact ⟨_, hexec, frParseDoc_unchangedOutside hexec, parseDocFault_eq_faulted f s⟩

/-! ### The obligations -/

/-- Settles O35: FR_READ_CHUNK at its cursor, and FR_PARSE_DOC where the loop comes to `rest`. -/
theorem truncationIsReported : Obligations.TruncationIsReported := by
  unfold Obligations.TruncationIsReported
  refine ⟨fun s c r hl hc hr => exec_frReadChunk_truncated hl hc hr, ?_⟩
  rintro s ks rest c _ hl htypes hiend hroom hsrc hne rfl hc
  have hstream : StreamOf s ks rest := ⟨htypes, hiend, hroom, hsrc⟩
  obtain ⟨hsig, -, hrest⟩ := hstream.srcHolds
  obtain ⟨fuel, hloop⟩ := hstream.parseChunks_eq
  have hpos : 8 + (docImage ks).length = c := by
    have := hstream.srcLen_eq
    omega
  have hbefore : c ≠ s.operand.srcLen.toNat := by
    have := List.length_pos_iff.2 hne
    omega
  rw [hpos] at hrest hloop
  have hexec := exec_frParseDoc hl hsig
  refine ⟨_, hexec, frParseDoc_unchangedOutside hexec, ?_⟩
  refine (truncationFault_report ks.length hc).imp (fun h8 => ?_) fun sub expected actual hf => ?_
  · rw [State.lengthField, State.memReadBE, hrest.take (by omega)]
  · have hfault := parseLoop_truncated (done := framedChunks 8 ks) hbefore
      (by rw [framedChunks_length]; exact hf) fuel
    rw [parseDocRun_of_error (hloop.trans hfault)]
    exact parseDocFault_eq_faulted _ s

/-- Settles O36: the loop frames the document's chunks, and the effect stores their descriptors. -/
theorem parseDocFramesTheDocument : Obligations.ParseDocFramesTheDocument := by
  unfold Obligations.ParseDocFramesTheDocument
  intro s init last trail hl htypes hiend hlast hihdr hsrc hroom
  have hbytes : s.srcBytes = signature ++ docImage init ++ (last.image ++ trail) := by
    rw [hsrc]
    simp
  have hstream : StreamOf s init (last.image ++ trail) :=
    ⟨fun k hk => htypes k (by simp [hk]), hiend, by omega, hbytes⟩
  obtain ⟨hsig, -, -⟩ := hstream.srcHolds
  have hchunks := hstream.parseChunks_of_iend hlast hroom
  have hrequire : requireIhdr (framedChunks 8 (init ++ [last])) =
      .ok (framedChunks 8 (init ++ [last])) := by
    rw [requireIhdr_framedChunks, if_pos hihdr]
  have hlen : 8 + (docImage init).length + (last.image.length + trail.length) =
      s.operand.srcLen.toNat := by
    rw [← List.length_append]
    exact hstream.srcLen_eq
  have hend : endOffset (framedChunks 8 (init ++ [last])) = s.operand.srcLen.toNat - trail.length := by
    rw [endOffset_framedChunks 8 hstream.types (htypes last (by simp)), docImage_append,
      docImage_singleton, List.length_append]
    omega
  have hexec := exec_of_success (i := .frParseDoc) (s := s) rfl
    ⟨hl, signatureFault_eq_none hsig, _, hchunks, hrequire, rfl⟩
  refine ⟨_, hexec, ?_, ?_⟩
  · rw [← framedChunks_descriptors]
    exact readByte_memWrite s s.operand.dstAddr.toNat _
  · rw [parseDocEffect_framedChunks, hend, Nat.sub_sub_self (by omega), List.length_append]
    rfl

/-- Settles O39: the loop comes to the end of the records and there meets the end of the stream, an IEND
with no IHDR before it, or a record whose descriptor does not fit. -/
theorem parseDocExecutionFaults : Obligations.ParseDocExecutionFaults := by
  unfold Obligations.ParseDocExecutionFaults
  intro s ks hl htypes hiend hroom
  refine ⟨fun hsrc => ?_, fun last trail hlast hihdr hfits hsrc => ?_,
    fun next rest htype hover hsrc => ?_⟩
  · have hstream : StreamOf s ks [] := ⟨htypes, hiend, hroom, by rw [hsrc, List.append_nil]⟩
    obtain ⟨hsig, -, -⟩ := hstream.srcHolds
    obtain ⟨fuel, hloop⟩ := hstream.parseChunks_eq
    have hend : 8 + (docImage ks).length = s.operand.srcLen.toNat := hstream.srcLen_eq
    rw [hend, parseLoop_end, framedChunks_length] at hloop
    exact exec_frParseDoc_of_fault hl hsig (parseDocRun_of_error hloop)
  · have hstream : StreamOf s ks (last.image ++ trail) :=
      ⟨htypes, hiend, hroom, by rw [hsrc]; simp⟩
    obtain ⟨hsig, -, -⟩ := hstream.srcHolds
    have hchunks := hstream.parseChunks_of_iend hlast hfits
    have hnone : ∀ k ∈ ks ++ [last], k.type ≠ tagIHDR := by
      intro k hk
      rcases List.mem_append.1 hk with hk | hk
      · exact hihdr k hk
      · rw [List.mem_singleton.1 hk, hlast]
        decide
    have hrun := parseDocRun_of_missing_ihdr hchunks hnone
    rw [List.length_append] at hrun
    exact exec_frParseDoc_of_fault hl hsig hrun
  · have hstream : StreamOf s ks (next.image ++ rest) :=
      ⟨htypes, hiend, hroom, by rw [hsrc]; simp⟩
    obtain ⟨hsig, -, hrest⟩ := hstream.srcHolds
    obtain ⟨fuel, hloop⟩ := hstream.parseChunks_eq
    rw [parseLoop_overflow htype ((srcHolds_append _ _ _ _).1 hrest).1 (by simpa using hover),
      framedChunks_length] at hloop
    exact exec_frParseDoc_of_fault hl hsig (parseDocRun_of_error hloop)

end Sys2Proof.Machine
end

section
/-! SUPPORT. The filter commands as their checks decide (42_filter.md R221, R229 to R231), the rows that
SF_REFILTER_NONE stores, and from it the obligations about them. -/

namespace Sys2Proof.Machine

/-! ### The checks before the lengths (42_filter.md R221, R229, R231) -/

/-- A command whose first check is that of BPP reports it first, and then its regions. -/
theorem filterPreamble_of_exec {i : Instr} {s : State} {check : Option CmdFault}
    {effect : State → State} (hexec : exec i s = runChecked (bppFault s <|> check) effect s) :
    FilterPreamble i s := by
  refine ⟨fun hbpp => ?_, regionsReported⟩
  rw [hexec]
  exact runChecked_of_some (check_or_eq_some.2 (.inl (if_neg hbpp))) _ s

theorem exec_sfDefilter (s : State) : exec .sfDefilter s = execSfDefilter s := rfl

theorem exec_sfRefilterNone (s : State) : exec .sfRefilterNone s = execSfRefilterNone s := rfl

theorem sfDefilter_preamble (s : State) : FilterPreamble .sfDefilter s :=
  filterPreamble_of_exec (exec_sfDefilter s)

theorem sfRefilterNone_preamble (s : State) : FilterPreamble .sfRefilterNone s :=
  filterPreamble_of_exec (exec_sfRefilterNone s)

/-- With BPP and the regions legal, the checks after them decide. -/
theorem bppFault_or_regionFault_or {i : Instr} {s : State}
    (hbpp : 1 ≤ s.filter.bpp.toNat ∧ s.filter.bpp.toNat ≤ 4) (hl : RegionsLegal i s)
    (check : Option CmdFault) : (bppFault s <|> regionFault i s <|> check) = check := by
  rw [regionFault_or hl, (bppFault_eq_none_iff s).2 hbpp]
  rfl

section Decide

variable {s : State} {f : CmdFault}

/-- SF_DEFILTER, its first checks passed, answers the fault that its later ones find. -/
theorem exec_sfDefilter_of_fault (hbpp : EarlyChecksPass .sfDefilter s)
    (hl : RegionsLegal .sfDefilter s)
    (hf : (pixelDataFault s <|> dstOverflowFault s.rawLen s <|> filterTypeFault s) = some f) :
    exec .sfDefilter s =
      .next (s.faulted f.code.num f.sub f.index f.offset f.expected f.actual) :=
  (exec_sfDefilter s).trans <| runChecked_of_some ((bppFault_or_regionFault_or hbpp hl _).trans hf) _ s

/-- SF_REFILTER_NONE, its first checks passed, answers the fault that its later ones find. -/
theorem exec_sfRefilterNone_of_fault (hbpp : EarlyChecksPass .sfRefilterNone s)
    (hl : RegionsLegal .sfRefilterNone s)
    (hf : (rawLengthFault s <|> dstOverflowFault s.filteredLen s) = some f) :
    exec .sfRefilterNone s =
      .next (s.faulted f.code.num f.sub f.index f.offset f.expected f.actual) :=
  (exec_sfRefilterNone s).trans <| runChecked_of_some ((bppFault_or_regionFault_or hbpp hl _).trans hf) _ s

/-- SF_REFILTER_NONE, all its checks passed, stores the refiltered rows at DST. -/
theorem exec_sfRefilterNone_of_fits (hbpp : EarlyChecksPass .sfRefilterNone s)
    (hl : RegionsLegal .sfRefilterNone s) (hlen : s.operand.srcLen.toNat = s.rawLen)
    (hfit : s.filteredLen ≤ s.operand.dstLen.toNat) :
    exec .sfRefilterNone s = .next (complete s.filteredLen 0
      (s.memWrite s.operand.dstAddr.toNat (refilterRows s.rowBytes s.rows s.srcBytes))) := by
  rw [exec_sfRefilterNone]
  refine runChecked_next.2 (.inr ⟨(bppFault_or_regionFault_or hbpp hl _).trans ?_, rfl⟩)
  exact check_or_eq_none.2
    ⟨(rawLengthFault_eq_none_iff s).2 hlen, (dstOverflowFault_eq_none_iff _ s).2 hfit⟩

end Decide

/-! ### The filter types of the rows (42_filter.md R230) -/

/-- A search through `0, 1, …` finds its first hit. -/
theorem findSome?_range_of_first {α : Type} {g : Nat → Option α} {n y : Nat} {b : α} (hy : y < n)
    (hbefore : ∀ k, k < y → g k = none) (hhit : g y = some b) :
    (List.range n).findSome? g = some b := by
  obtain ⟨m, rfl⟩ := Nat.exists_eq_add_of_lt hy
  have hnone : (List.range y).findSome? g = none :=
    List.findSome?_eq_none_iff.2 fun k hk => hbefore k (List.mem_range.1 hk)
  rw [Nat.add_assoc, List.range_add, List.findSome?_append, hnone, List.range_succ_eq_map]
  simp [hhit]

/-- The first row whose type is above 4 is the one the check reports. -/
theorem filterTypeFault_first {s : State} {y : Nat} (hy : y < s.rows)
    (hbefore : ∀ y', y' < y →
      (s.readByte (s.operand.srcAddr.toNat + y' * s.stride)).toNat ≤ 4)
    (hbad : 4 < (s.readByte (s.operand.srcAddr.toNat + y * s.stride)).toNat) :
    filterTypeFault s = some
      { code := .badFilterType, index := y, offset := y * s.stride, expected := 4,
        actual := (s.readByte (s.operand.srcAddr.toNat + y * s.stride)).toNat } :=
  findSome?_range_of_first hy (fun y' hy' => if_neg (hbefore y' hy').not_gt) (if_pos hbad)

/-! ### The refiltered rows (42_filter.md R231) -/

/-- Column `x` of row `y` is inside an image of `h` rows of `w`. -/
theorem row_column_lt {y h x w : Nat} (hy : y < h) (hx : x < w) : y * w + x < h * w := by
  rw [Nat.mul_comm y]
  exact Nat.mul_add_lt_mul_of_lt_of_lt hy hx

/-- What follows the first of the refiltered rows. -/
theorem getD_refilterRows_succ {r n : Nat} {raw : Bytes} (hr : r ≤ raw.length) (k : Nat) :
    (refilterRows r (n + 1) raw).getD (r + 1 + k) 0#8 =
      (refilterRows r n (raw.drop r)).getD k 0#8 := by
  have htake : (raw.take r).length = r := List.length_take_of_le hr
  rw [refilterRows, Nat.add_right_comm, List.getD_cons_succ,
    List.getD_append_right _ _ _ _ (by omega), htake, Nat.add_sub_cancel_left]

/-- Every refiltered row begins with filter type None. -/
theorem getD_refilterRows_type {r n y : Nat} {raw : Bytes} (h : raw.length = n * r) (hy : y < n) :
    (refilterRows r n raw).getD (y * (r + 1)) 0#8 = 0#8 := by
  induction n generalizing raw y with
  | zero => omega
  | succ n ih =>
    rw [Nat.succ_mul] at h
    cases y with
    | zero => simp [refilterRows]
    | succ y =>
      rw [Nat.succ_mul, Nat.add_comm (y * _), getD_refilterRows_succ (by omega)]
      exact ih (by rw [List.length_drop]; omega) (by omega)

/-- The raw bytes of a row follow its filter type unchanged. -/
theorem getD_refilterRows_byte {r n y x : Nat} {raw : Bytes} (h : raw.length = n * r) (hy : y < n)
    (hx : x < r) :
    (refilterRows r n raw).getD (y * (r + 1) + 1 + x) 0#8 = raw.getD (y * r + x) 0#8 := by
  induction n generalizing raw y with
  | zero => omega
  | succ n ih =>
    rw [Nat.succ_mul] at h
    cases y with
    | zero =>
      rw [refilterRows, Nat.zero_mul, Nat.zero_mul, Nat.zero_add, Nat.zero_add, Nat.add_comm,
        List.getD_cons_succ, List.getD_append _ _ _ _ (by rw [List.length_take]; omega)]
      simp [List.getD_eq_getElem?_getD, hx]
    | succ y =>
      have hrow : (y + 1) * (r + 1) + 1 + x = r + 1 + (y * (r + 1) + 1 + x) := by ring
      have hcol : (y + 1) * r + x = r + (y * r + x) := by ring
      rw [hrow, hcol, getD_refilterRows_succ (by omega),
        ih (by rw [List.length_drop]; omega) (by omega)]
      simp [List.getD_eq_getElem?_getD]

/-- Where the refiltered rows of SRC are stored, each reads as its filter type and the bytes of SRC. -/
theorem StoredExactly.readByte_refilterRow {s t : State} {r h src dst : Nat}
    (hst : StoredExactly s t dst (refilterRows r h (s.memRead src (h * r)))) {y : Nat} (hy : y < h) :
    t.readByte (dst + y * (r + 1)) = 0#8 ∧
      ∀ x, x < r → t.readByte (dst + y * (r + 1) + 1 + x) = s.readByte (src + y * r + x) := by
  have hraw := memRead_length s src (h * r)
  have hlen := refilterRows_length r h _ hraw
  have hread (k : Nat) (hk : k < r + 1) : t.readByte (dst + (y * (r + 1) + k)) =
      (refilterRows r h (s.memRead src (h * r))).getD (y * (r + 1) + k) 0#8 := by
    have hinside := row_column_lt hy hk
    rw [hst, if_pos (by omega), Nat.add_sub_cancel_left]
  refine ⟨(hread 0 (by omega)).trans (getD_refilterRows_type hraw hy), fun x hx => ?_⟩
  rw [Nat.add_assoc, Nat.add_assoc dst, Nat.add_assoc src, hread (1 + x) (by omega),
    ← Nat.add_assoc, getD_refilterRows_byte hraw hy hx, memRead_getD _ _ _ _ (row_column_lt hy hx)]

/-! ### The obligations -/

/-- Settles O46: BPP first, then the regions, then SRC_LEN, then DST_LEN. -/
theorem filterParameterFaults : Obligations.FilterParameterFaults := by
  unfold Obligations.FilterParameterFaults
  rintro s r h n rfl rfl rfl
  refine ⟨sfDefilter_preamble s, sfRefilterNone_preamble s, fun hbpp hl =>
    ⟨fun hlen => ?_, fun hlen hover => ?_⟩⟩
  · exact exec_sfDefilter_of_fault hbpp hl (check_or_eq_some.2 (.inl (if_pos hlen)))
  · exact exec_sfDefilter_of_fault hbpp hl (check_or_eq_some.2 (.inr
      ⟨(pixelDataFault_eq_none_iff s).2 hlen, check_or_eq_some.2 (.inl (if_pos hover))⟩))

/-- Settles O47: with the lengths right and the output in room, the row types decide. -/
theorem badFilterTypeIsReported : Obligations.BadFilterTypeIsReported := by
  unfold Obligations.BadFilterTypeIsReported
  rintro s bpp r h src y f rfl rfl rfl rfl hlow hhigh hl hlen hfit hy hbefore rfl hbad
  exact exec_sfDefilter_of_fault ⟨hlow, hhigh⟩ hl (check_or_eq_some.2 (.inr
    ⟨(pixelDataFault_eq_none_iff s).2 hlen, check_or_eq_some.2 (.inr
      ⟨(dstOverflowFault_eq_none_iff _ s).2 hfit, filterTypeFault_first hy hbefore hbad⟩)⟩))

/-- Settles O48: the checks in their order, and the rows stored when all pass. -/
theorem refilterResult : Obligations.RefilterResult := by
  unfold Obligations.RefilterResult
  rintro s r h n src dst rfl rfl rfl rfl rfl
  refine ⟨sfRefilterNone_preamble s, fun hbpp hl =>
    ⟨fun hlen => ?_, fun hlen hover => ?_, fun hlen hfit => ?_⟩⟩
  · exact exec_sfRefilterNone_of_fault hbpp hl (check_or_eq_some.2 (.inl (if_pos hlen)))
  · exact exec_sfRefilterNone_of_fault hbpp hl (check_or_eq_some.2 (.inr
      ⟨(rawLengthFault_eq_none_iff s).2 hlen, if_pos hover⟩))
  · have hstored := complete_memWrite_storedExactly s.filteredLen 0 s s.operand.dstAddr.toNat
      (refilterRows s.rowBytes s.rows s.srcBytes)
    have hwidth : (refilterRows s.rowBytes s.rows s.srcBytes).length = s.filteredLen :=
      refilterRows_length _ _ _ (by rw [srcBytes_length, hlen]; rfl)
    have hsrc : s.srcBytes = s.memRead s.operand.srcAddr.toNat (s.rows * s.rowBytes) :=
      congrArg _ hlen
    refine ⟨_, exec_sfRefilterNone_of_fits hbpp hl hlen hfit, rfl, fun x hx => ?_, fun y hy => ?_⟩
    · exact readByte_memWrite_outside s _ _ x (by rwa [hwidth])
    · rw [hsrc] at hstored ⊢
      exact hstored.readByte_refilterRow hy

end Sys2Proof.Machine
end

section
/-! SUPPORT. The cipher commands as their checks decide (43_cipher.md R261 to R263, R265, R271, R274), the
power that square and multiply computes (00_scope.md R15), and from it the obligations about the key, the
stream preamble and RC_MODEXP. -/

namespace Sys2Proof.Machine

/-! ### Square and multiply computes the power (00_scope.md R15) -/

/-- The loop multiplies what is left of the power into the accumulator. -/
theorem powmodLoop_eq {n fuel x y acc : Nat} (hfuel : y < 2 ^ fuel) (hacc : acc < n) :
    powmodLoop n fuel x y acc = acc * x ^ y % n := by
  induction fuel generalizing x y acc with
  | zero =>
    obtain rfl : y = 0 := by simpa using hfuel
    simp [powmodLoop, Nat.mod_eq_of_lt hacc]
  | succ fuel ih =>
    have hhalf : y / 2 < 2 ^ fuel := by rw [pow_succ] at hfuel; omega
    have hsquare : (x * x % n) ^ (y / 2) ≡ x ^ (2 * (y / 2)) [MOD n] := by
      rw [pow_mul, pow_two]
      exact (Nat.mod_modEq _ _).pow _
    rw [powmodLoop]
    split
    · next hodd =>
      rw [ih hhalf (Nat.mod_lt _ (by omega))]
      have hy : acc * x ^ y = acc * x * x ^ (2 * (y / 2)) := by
        rw [mul_assoc, ← pow_succ', show 2 * (y / 2) + 1 = y by omega]
      rw [hy]
      exact (Nat.mod_modEq _ _).mul hsquare
    · next heven =>
      rw [ih hhalf hacc]
      rw [show 2 * (y / 2) = y by omega] at hsquare
      exact hsquare.mul_left acc

theorem powmod_eq_pow_mod {n : Nat} (hn : 1 ≤ n) (x y : Nat) : powmod x y n = x ^ y % n := by
  rw [powmod, powmodLoop_eq Nat.lt_log2_self (Nat.mod_lt _ hn)]
  exact (Nat.ModEq.mul (Nat.mod_modEq 1 n) ((Nat.mod_modEq x n).pow y)).trans (by rw [one_mul])

/-! ### RC_LOAD_KEY and RC_CLEAR_KEY (43_cipher.md R261 to R263) -/

/-- A failing check of RC_LOAD_KEY is its fault, and the key is cleared with it. -/
theorem exec_rcLoadKey_of_fault {s : State} {f : CmdFault}
    (hf : (keyBitsFault s <|> regionFault .rcLoadKey s <|> keyInvalidFault s) = some f) :
    exec .rcLoadKey s =
      .next (s.withoutKey.faulted f.code.num f.sub f.index f.offset f.expected f.actual) := by
  rw [← clearKey_eq_withoutKey, ← takeFault_eq_faulted]
  simp only [exec, execRcLoadKey, hf]

/-- RC_LOAD_KEY, all its checks passed, loads the key. -/
theorem exec_rcLoadKey_of_none {s : State}
    (hf : (keyBitsFault s <|> regionFault .rcLoadKey s <|> keyInvalidFault s) = none) :
    exec .rcLoadKey s = .next (loadKeyEffect s) := by
  simp only [exec, execRcLoadKey, hf]

/-- Settles O52: KEY_BITS first, then the key image's range, then its modulus. -/
theorem keyLoadAndClear : Obligations.KeyLoadAndClear := by
  unfold Obligations.KeyLoadAndClear
  rintro s bits b addr rfl rfl rfl
  refine ⟨fun hlow hhigh hl n e d hn he hd => ?_, fun hbits => ?_, fun hlow hhigh hout => ?_, rfl⟩
  · have hbits := (keyBitsFault_eq_none_iff s).2 ⟨hlow, hhigh⟩
    have hregions := (regionFault_eq_none_iff .rcLoadKey s).2 hl
    obtain rfl : n = s.keyPart 0 := by
      rw [hn, State.keyPart, Nat.zero_mul, Nat.add_zero]; rfl
    obtain rfl : e = s.keyPart 1 := by rw [he, State.keyPart, Nat.one_mul]; rfl
    obtain rfl : d = s.keyPart 2 := hd
    refine ⟨fun hpos => ?_, fun hzero => exec_rcLoadKey_of_fault (check_or_eq_some.2 (.inr
      ⟨hbits, check_or_eq_some.2 (.inr ⟨hregions, if_pos hzero⟩)⟩))⟩
    exact exec_rcLoadKey_of_none (check_or_eq_none.2 ⟨hbits, check_or_eq_none.2
      ⟨hregions, (keyInvalidFault_eq_none_iff s).2 hpos⟩⟩)
  · exact exec_rcLoadKey_of_fault (check_or_eq_some.2 (.inl (if_pos hbits)))
  · have hearly : EarlyChecksPass .rcLoadKey s := ⟨hlow, hhigh⟩
    exact (regionsReported hearly).1 [] [] (keyRegion s) rfl (by simp)
      (by simp only [keyRegion, loadWidth]; omega) hout

/-! ### The preamble of the stream commands (43_cipher.md R265, R274) -/

theorem exec_rcEcbEnc (s : State) : exec .rcEcbEnc s = runStream ecbEncFault ecbEncEffect s := rfl

theorem exec_rcEcbDec (s : State) : exec .rcEcbDec s = runStream ecbDecFault ecbDecEffect s := rfl

theorem exec_rcCfbEnc (s : State) :
    exec .rcCfbEnc s = runStream (cfbFault .rcCfbEnc) (cfbEffect cfbEncSegments) s := rfl

theorem exec_rcCfbDec (s : State) :
    exec .rcCfbDec s = runStream (cfbFault .rcCfbDec) (cfbEffect cfbDecSegments) s := rfl

section Stream

variable {i : Instr} {s : State} {check : State → Option CmdFault} {effect : State → State}

/-- A stream command checks the key first, then takes the zero-length no-op, then its regions. -/
theorem streamPreamble_of_exec (hexec : exec i s = runStream check effect s) : StreamPreamble i s := by
  refine ⟨fun hkey => ?_, fun hkey hlen => ?_, regionsReported⟩
  · rw [hexec]
    refine runStream_next.2 (.inl ⟨hkey, ?_⟩)
    rw [takeFault_eq_faulted]
    rfl
  · rw [hexec]
    exact runStream_next.2 (.inr (.inl ⟨hkey, congrArg BitVec.toNat hlen, rfl⟩))

/-- With a key and a stream that is not empty, the first failing check is the fault. -/
theorem exec_stream_of_fault (hexec : exec i s = runStream check effect s)
    (hkey : s.status.keyValid = true) (hlen : 0 < s.operand.srcLen.toNat) {f : CmdFault}
    (hf : check s = some f) :
    exec i s = .next (s.faulted f.code.num f.sub f.index f.offset f.expected f.actual) := by
  rw [hexec, ← takeFault_eq_faulted]
  exact runStream_next.2 (.inr (.inr ⟨hkey, hlen, .inl ⟨f, hf, rfl⟩⟩))

/-- With a key, a stream that is not empty and all checks passed, the effect is the outcome. -/
theorem exec_stream_of_none (hexec : exec i s = runStream check effect s)
    (hkey : s.status.keyValid = true) (hlen : 0 < s.operand.srcLen.toNat) (hf : check s = none) :
    exec i s = .next (effect s) := by
  rw [hexec]
  exact runStream_next.2 (.inr (.inr ⟨hkey, hlen, .inr ⟨hf, rfl⟩⟩))

end Stream

theorem streamPreamble {i : Instr} (hi : i = .rcEcbEnc ∨ i = .rcEcbDec ∨ i = .rcCfbEnc ∨ i = .rcCfbDec)
    (s : State) : StreamPreamble i s := by
  rcases hi with rfl | rfl | rfl | rfl
  · exact streamPreamble_of_exec (exec_rcEcbEnc s)
  · exact streamPreamble_of_exec (exec_rcEcbDec s)
  · exact streamPreamble_of_exec (exec_rcCfbEnc s)
  · exact streamPreamble_of_exec (exec_rcCfbDec s)

/-! ### RC_MODEXP (43_cipher.md R271) -/

/-- With the key, SRC_LEN and the regions legal, the room in DST decides. -/
theorem modexpFault_of_regionsLegal {i : Instr} {s : State} (hkey : s.status.keyValid = true)
    (hpos : 0 < s.operand.srcLen.toNat) (hle : s.operand.srcLen.toNat ≤ s.key.kb)
    (hl : RegionsLegal i s) : modexpFault i s = dstOverflowFault s.key.kb s := by
  rw [modexpFault, (keyNotLoadedFault_eq_none_iff s).2 hkey, (blockLenFault_eq_none_iff s).2 ⟨hpos, hle⟩,
    regionFault_or hl]
  rfl

section Modexp

variable {i : Instr} {s : State} {y : Nat}
  (hi : (i = .rcModexpE ∧ y = s.key.ke) ∨ (i = .rcModexpD ∧ y = s.key.kd))

include hi

/-- The two modes of RC_MODEXP differ in the exponent only. -/
theorem exec_modexp : exec i s = runChecked (modexpFault i s) (modexpEffect y) s := by
  rcases hi with ⟨rfl, rfl⟩ | ⟨rfl, rfl⟩ <;> rfl

/-- A failing check of RC_MODEXP is its fault. -/
theorem exec_modexp_of_fault {f : CmdFault} (hf : modexpFault i s = some f) :
    exec i s = .next (s.faulted f.code.num f.sub f.index f.offset f.expected f.actual) :=
  (exec_modexp hi).trans (runChecked_of_some hf _ s)

/-- RC_MODEXP, all its checks passed, stores the power. -/
theorem exec_modexp_of_none (hf : modexpFault i s = none) : exec i s = .next (modexpEffect y s) :=
  (exec_modexp hi).trans (runChecked_next.2 (.inr ⟨hf, rfl⟩))

theorem exec_modexp_of_no_key (hkey : s.status.keyValid = false) :
    exec i s = .next (s.faulted 0x03 0 0 0 1 0) := by
  have hfault : keyNotLoadedFault s = some { code := .keyNotLoaded, expected := 1 } :=
    if_neg (by simp [hkey])
  exact exec_modexp_of_fault hi (check_or_eq_some.2 (.inl hfault))

end Modexp

/-! ### The obligations -/

/-- Settles O53: the key check is the first check of all six, and the no-op the second step of the four
stream commands. -/
theorem keyCheckThenZeroLength : Obligations.KeyCheckThenZeroLength := by
  unfold Obligations.KeyCheckThenZeroLength
  refine fun s i => ⟨fun hi hkey => ?_, fun hi hkey hlen => (streamPreamble hi s).2.1 hkey hlen⟩
  rcases hi with hi | hi | hi | hi | hi | hi
  · exact (streamPreamble (.inl hi) s).1 hkey
  · exact (streamPreamble (.inr (.inl hi)) s).1 hkey
  · exact (streamPreamble (.inr (.inr (.inl hi))) s).1 hkey
  · exact (streamPreamble (.inr (.inr (.inr hi))) s).1 hkey
  · exact exec_modexp_of_no_key (.inl ⟨hi, rfl⟩) hkey
  · exact exec_modexp_of_no_key (.inr ⟨hi, rfl⟩) hkey

/-- Settles O57: the checks in their order, and the power of the block stored when all pass. -/
theorem modexpResult : Obligations.ModexpResult := by
  unfold Obligations.ModexpResult
  rintro s i b n x y rfl rfl rfl hi
  refine ⟨exec_modexp_of_no_key hi, regionsReported, fun hkey hlen => ?_,
    fun hkey hpos hle hl hover => ?_, fun hok hkey hpos hle hl hfit => ?_⟩
  · exact exec_modexp_of_fault hi (check_or_eq_some.2 (.inr
      ⟨(keyNotLoadedFault_eq_none_iff s).2 hkey, check_or_eq_some.2 (.inl (if_pos hlen))⟩))
  · exact exec_modexp_of_fault hi ((modexpFault_of_regionsLegal hkey hpos hle hl).trans (if_pos hover))
  · obtain ⟨-, ⟨hkn, -⟩, -⟩ := hok.1 hkey
    have hpass : modexpFault i s = none := (modexpFault_of_regionsLegal hkey hpos hle hl).trans
      ((dstOverflowFault_eq_none_iff _ s).2 hfit)
    refine ⟨_, exec_modexp_of_none hi hpass, ?_, ?_⟩
    · simp only [modexpEffect, complete_eq_succeeded, State.noteBlocks, List.any_cons, List.any_nil,
        Bool.or_false]
      rfl
    · rw [← powmod_eq_pow_mod hkn]
      exact complete_memWrite_storedExactly _ _ _ _ _

end Sys2Proof.Machine
end

section
/-! SUPPORT. The byte streams of the cipher cut into blocks (43_cipher.md R265, R266 to R270): what a block of
a stream in memory, of a stream of concatenated blocks and of a chained stream is, and from it the
obligation about RC_CFB_ENC and RC_CFB_DEC. -/

namespace Sys2Proof.Machine

/-! ### Blocks of a stream -/

@[simp] theorem blockOf_zero (w : Nat) (bs : Bytes) : blockOf w 0 bs = bs.take w := by simp [blockOf]

@[simp] theorem blockOf_succ (w i : Nat) (bs : Bytes) :
    blockOf w (i + 1) bs = blockOf w i (bs.drop w) := by
  rw [blockOf, blockOf, List.drop_drop, Nat.succ_mul, Nat.add_comm]

/-- A block of the bytes of a region is the bytes of its part of the region. -/
theorem blockOf_memRead (s : State) (a n w i : Nat) :
    blockOf w i (s.memRead a n) = s.memRead (a + i * w) (min w (n - i * w)) := by
  refine List.ext_getElem (by simp [blockOf]) fun j h1 h2 => ?_
  simp [blockOf, State.memRead, Nat.add_assoc]

/-- The head of a stream is its first block, when it is as long as that block. -/
theorem take_and_drop_of_head_block {w : Nat} {c rest : Bytes} (h : c.length = min w (c ++ rest).length) :
    (c ++ rest).take w = c ∧ (c ++ rest).drop w = rest := by
  rw [List.length_append] at h
  rcases Nat.lt_or_ge c.length w with hlt | hge
  · obtain rfl : rest = [] := List.length_eq_zero_iff.1 (by omega)
    rw [List.append_nil]
    exact ⟨List.take_of_length_le hlt.le, List.drop_of_length_le hlt.le⟩
  · obtain rfl : w = c.length := by omega
    exact ⟨List.take_left, List.drop_left⟩

/-- `n` blocks of a stream of `l` bytes, concatenated, are as long as what they hold of it. -/
theorem length_flatMap_blocks {w l n : Nat} {g : Nat → Bytes}
    (hg : ∀ i, i < n → (g i).length = min w (l - i * w)) :
    ((List.range n).flatMap g).length = min (n * w) l := by
  rw [List.length_flatMap, ← sum_kept]
  exact congrArg _ (List.map_congr_left fun i hi => hg i (List.mem_range.1 hi))

/-- A block of concatenated blocks. -/
theorem blockOf_flatMap_range {w l n i : Nat} {g : Nat → Bytes}
    (hg : ∀ i, i < n → (g i).length = min w (l - i * w)) (hi : i < n) :
    blockOf w i ((List.range n).flatMap g) = g i := by
  induction n generalizing l i g with
  | zero => omega
  | succ n ih =>
    have htail (j : Nat) (hj : j < n) : (g (j + 1)).length = min w (l - w - j * w) := by
      rw [hg (j + 1) (by omega), Nat.succ_mul]
      omega
    have hhead : (g 0).length = min w (g 0 ++ (List.range n).flatMap fun j => g (j + 1)).length := by
      have h0 := hg 0 (by omega)
      rw [Nat.zero_mul] at h0
      rw [List.length_append, length_flatMap_blocks htail, h0]
      omega
    obtain ⟨htake, hdrop⟩ := take_and_drop_of_head_block hhead
    rw [List.range_succ_eq_map, List.flatMap_cons, List.flatMap_map]
    cases i with
    | zero => rw [blockOf_zero, htake]
    | succ i => rw [blockOf_succ, hdrop]; exact ih htail (by omega)

/-- The bytes of a block that lies inside a region. -/
theorem memRead_eq_blockOf {n w i : Nat} (s : State) (a : Nat) (h : i * w + w ≤ n) :
    s.memRead (a + i * w) w = blockOf w i (s.memRead a n) := by
  rw [blockOf_memRead, Nat.min_eq_left (by omega)]

/-- A block of the concatenated blocks stored at an address. -/
theorem memRead_memWrite_blocks {w l n i : Nat} {g : Nat → Bytes} (s : State) (a : Nat)
    (hg : ∀ i, i < n → (g i).length = min w (l - i * w)) (hl : l ≤ n * w) (hi : i < n) :
    (s.memWrite a ((List.range n).flatMap g)).memRead (a + i * w) (min w (l - i * w)) = g i := by
  have hread := memRead_memWrite_same s a ((List.range n).flatMap g)
  rw [length_flatMap_blocks hg, Nat.min_eq_right hl] at hread
  rw [← blockOf_memRead, hread, blockOf_flatMap_range hg hi]

/-- The same, when all blocks are whole. -/
theorem memRead_memWrite_whole_blocks {w n i : Nat} {g : Nat → Bytes} (s : State) (a : Nat)
    (hg : ∀ i, i < n → (g i).length = w) (hi : i < n) :
    (s.memWrite a ((List.range n).flatMap g)).memRead (a + i * w) w = g i := by
  have hwhole (j : Nat) (hj : j < n) : min w (n * w - j * w) = w := by
    rw [← Nat.sub_mul]
    exact Nat.min_eq_left (Nat.le_mul_of_pos_left w (by omega))
  have hread := memRead_memWrite_blocks s a (l := n * w)
    (fun j hj => (hg j hj).trans (hwhole j hj).symm) le_rfl hi
  rwa [hwhole i hi] at hread

/-- Every block of a stream of `l` bytes begins inside it. -/
theorem mul_lt_of_lt_ceilDiv {l u j : Nat} (hu : 0 < u) (hj : j < ceilDiv l u) : j * u < l := by
  have hle : (j + 1) * u ≤ l + u - 1 := (Nat.le_div_iff_mul_le hu).1 hj
  rw [Nat.succ_mul] at hle
  omega

/-! ### Segments of CFB (43_cipher.md R268 to R270) -/

/-- The feedback value of segment `j`: the first one is `fb`, then each is the block of `stream` before. -/
def cfbFeedback (w fb : Nat) (stream : Bytes) : Nat → Nat
  | 0 => fb
  | j + 1 => fromBE (blockOf w j stream)

theorem cfbFeedback_succ (w fb : Nat) (stream : Bytes) (j : Nat) :
    cfbFeedback w fb stream (j + 1) = cfbFeedback w (fromBE (stream.take w)) (stream.drop w) j := by
  cases j <;> simp [cfbFeedback]

theorem cfbFeedback_memRead {l w j : Nat} (s : State) (a fb : Nat) (h : j * w ≤ l) :
    cfbFeedback w fb (s.memRead a l) j = if j = 0 then fb else fromBE (s.memRead (a + (j - 1) * w) w) := by
  cases j with
  | zero => rfl
  | succ j =>
    rw [Nat.succ_mul] at h
    rw [cfbFeedback, if_neg (Nat.succ_ne_zero j), Nat.add_sub_cancel, memRead_eq_blockOf s a h]

/-- Each segment of CFB encryption, from the ciphertext before it. -/
theorem blockOf_cfbEncSegments {k : KeyRegs} {n fb j : Nat} {plain : Bytes} (hj : j < n) :
    blockOf k.kb j (cfbEncSegments k n fb plain) = xorBytes (blockOf k.kb j plain)
      (cfbKeystream k (cfbFeedback k.kb fb (cfbEncSegments k n fb plain) j)) := by
  induction n generalizing fb plain j with
  | zero => omega
  | succ n ih =>
    have hlen := cfbEncSegments_length k (n + 1) fb plain
    rw [Nat.succ_mul] at hlen
    simp only [cfbEncSegments] at hlen ⊢
    obtain ⟨htake, hdrop⟩ := take_and_drop_of_head_block (w := k.kb)
      (c := xorBytes (plain.take k.kb) (cfbKeystream k fb))
      (rest := cfbEncSegments k n (fromBE (xorBytes (plain.take k.kb) (cfbKeystream k fb)))
        (plain.drop k.kb))
      (by rw [hlen]; simp [xorBytes]; omega)
    cases j with
    | zero => rw [blockOf_zero, blockOf_zero, htake]; rfl
    | succ j =>
      rw [cfbFeedback_succ, blockOf_succ, blockOf_succ, htake, hdrop]
      exact ih (by omega)

/-- Each segment of CFB decryption, from the ciphertext before it. -/
theorem blockOf_cfbDecSegments {k : KeyRegs} {n fb j : Nat} {cipher : Bytes} (hj : j < n) :
    blockOf k.kb j (cfbDecSegments k n fb cipher) = xorBytes (blockOf k.kb j cipher)
      (cfbKeystream k (cfbFeedback k.kb fb cipher j)) := by
  induction n generalizing fb cipher j with
  | zero => omega
  | succ n ih =>
    have hlen := cfbDecSegments_length k (n + 1) fb cipher
    rw [Nat.succ_mul] at hlen
    simp only [cfbDecSegments] at hlen ⊢
    obtain ⟨htake, hdrop⟩ := take_and_drop_of_head_block (w := k.kb)
      (c := xorBytes (cipher.take k.kb) (cfbKeystream k fb))
      (rest := cfbDecSegments k n (fromBE (cipher.take k.kb)) (cipher.drop k.kb))
      (by rw [hlen]; simp [xorBytes]; omega)
    cases j with
    | zero => rw [blockOf_zero, blockOf_zero, htake]; rfl
    | succ j =>
      rw [cfbFeedback_succ, blockOf_succ, blockOf_succ, hdrop]
      exact ih (by omega)

/-- The keystream, by the power it is (43_cipher.md R264, R268). -/
theorem cfbKeystream_eq {k : KeyRegs} (hn : 1 ≤ k.kn) (fb : Nat) :
    cfbKeystream k fb = beBytes k.kb (fb ^ k.ke % k.kn) := by
  rw [cfbKeystream, KeyRegs.rsaE, powmod_eq_pow_mod hn]

/-- A CFB command, all its checks passed, stores the output of its segments at DST. -/
theorem exec_cfb_of_fits {i : Instr} {s : State} {segments : KeyRegs → Nat → Nat → Bytes → Bytes}
    {out : Bytes} (hexec : exec i s = runStream (cfbFault i) (cfbEffect segments) s)
    (hout : segments s.key (ceilDiv s.operand.srcLen.toNat s.key.kb) s.ivValue s.srcBytes = out)
    (hlength : out.length = s.operand.srcLen.toNat)
    (hkey : s.status.keyValid = true) (hpos : 0 < s.operand.srcLen.toNat) (hl : RegionsLegal i s)
    (hfit : s.operand.srcLen.toNat ≤ s.operand.dstLen.toNat) :
    ∃ t, exec i s = .next t ∧
      t = ({ s with mem := t.mem } : State).succeeded s.operand.srcLen.toNat 0 ∧
      UnchangedOutside s t s.operand.dstAddr.toNat s.operand.srcLen.toNat ∧
      t.memRead s.operand.dstAddr.toNat s.operand.srcLen.toNat = out := by
  subst hout
  have hpass : cfbFault i s = none :=
    (regionFault_or hl _).trans ((dstOverflowFault_eq_none_iff _ s).2 hfit)
  refine ⟨_, exec_stream_of_none hexec hkey hpos hpass, rfl, fun x hx => ?_, ?_⟩
  · exact readByte_memWrite_outside s _ _ x (by rwa [hlength])
  · have hread := memRead_memWrite_same s s.operand.dstAddr.toNat
      (segments s.key (ceilDiv s.operand.srcLen.toNat s.key.kb) s.ivValue s.srcBytes)
    rwa [hlength] at hread

/-- A segment of CFB as R269 and R270 write it, where `r` holds the ciphertext at `a`. -/
theorem cfb_segment {s t r : State} {l a j : Nat} (hb : 2 ≤ s.key.kb) (hn : 1 ≤ s.key.kn)
    (hl : l = s.operand.srcLen.toNat) (hj : j < ceilDiv l s.key.kb)
    (h : blockOf s.key.kb j (t.memRead s.operand.dstAddr.toNat l) =
      xorBytes (blockOf s.key.kb j s.srcBytes)
        (cfbKeystream s.key (cfbFeedback s.key.kb s.ivValue (r.memRead a l) j))) :
    t.memRead (s.operand.dstAddr.toNat + j * s.key.kb) (min s.key.kb (l - j * s.key.kb)) =
      List.zipWith (fun p q => p ^^^ q)
        (s.memRead (s.operand.srcAddr.toNat + j * s.key.kb) (min s.key.kb (l - j * s.key.kb)))
        (beBytes s.key.kb ((if j = 0 then s.ivValue
          else fromBE (r.memRead (a + (j - 1) * s.key.kb) s.key.kb)) ^ s.key.ke % s.key.kn)) := by
  have hbegin := (mul_lt_of_lt_ceilDiv (by omega) hj).le
  subst hl
  rwa [blockOf_memRead, State.srcBytes, blockOf_memRead, cfbKeystream_eq hn,
    cfbFeedback_memRead r a _ hbegin] at h

/-- Settles O56: each segment is a block of what the command stores, and its feedback value comes from the
ciphertext, which encryption stores and decryption reads. -/
theorem cfbResult : Obligations.CfbResult := by
  unfold Obligations.CfbResult
  refine fun s => ⟨streamPreamble (.inr (.inr (.inl rfl))) s,
    streamPreamble (.inr (.inr (.inr rfl))) s, ?_⟩
  rintro b l k src dst ks rfl rfl rfl rfl rfl rfl hok hkey hpos
  obtain ⟨⟨hkb, -⟩, ⟨hkn, -⟩, -⟩ := hok.1 hkey
  have hblocks := le_ceilDiv_mul s.operand.srcLen.toNat s.key.kb (by omega)
  refine ⟨fun hl hfit => ?_, fun hl hfit => ?_, ?_⟩
  · obtain ⟨t, ht, hstate, hframe, hread⟩ := exec_cfb_of_fits (exec_rcCfbEnc s) rfl
      (by rw [cfbEncSegments_length, srcBytes_length, Nat.min_eq_right hblocks]) hkey hpos hl hfit
    refine ⟨t, ht, hstate, hframe, ?_⟩
    rintro j hj n fb rfl rfl
    refine cfb_segment hkb hkn rfl hj ?_
    rw [hread]
    exact blockOf_cfbEncSegments hj
  · obtain ⟨t, ht, hstate, hframe, hread⟩ := exec_cfb_of_fits (exec_rcCfbDec s) rfl
      (by rw [cfbDecSegments_length, srcBytes_length, Nat.min_eq_right hblocks]) hkey hpos hl hfit
    refine ⟨t, ht, hstate, hframe, ?_⟩
    rintro j hj n fb rfl rfl
    refine cfb_segment hkb hkn rfl hj ?_
    rw [hread]
    exact blockOf_cfbDecSegments hj
  · rintro i (rfl | rfl) hl hover
    · exact exec_stream_of_fault (exec_rcCfbEnc s) hkey hpos (regionFault_or_dstOverflow hl hover)
    · exact exec_stream_of_fault (exec_rcCfbDec s) hkey hpos (regionFault_or_dstOverflow hl hover)

end Sys2Proof.Machine
end

section
/-! SUPPORT. The blocks of the ECB streams (43_cipher.md R266, R267): what RC_ECB_ENC and RC_ECB_DEC store a
block, when their flags are set, and from it the obligations about them. -/

namespace Sys2Proof.Machine

/-! ### RC_ECB_ENC (43_cipher.md R266) -/

/-- BLOCK_GE_N after a list of block values, one a block index. -/
theorem noteBlocks_blockGeN_iff (s : State) (n : Nat) (m : Nat → Nat) :
    (s.noteBlocks ((List.range n).map m)).status.blockGeN = true ↔
      s.status.blockGeN = true ∨ ∃ i, i < n ∧ s.key.kn ≤ m i := by
  simp

section Encrypt

variable {s : State} {k : Nat} {m : Nat → Nat}

/-- What RC_ECB_ENC leaves, its blocks given by their index as R266 writes them. -/
theorem ecbEncEffect_eq {cb : Nat → Bytes} (hn : 1 ≤ s.key.kn) (hcount : k = s.blockCount)
    (hm : m = fun i => fromBE (s.memRead (s.operand.srcAddr.toNat + i * s.key.ku)
      (min s.key.ku (s.operand.srcLen.toNat - i * s.key.ku))))
    (hcb : cb = fun i => beBytes s.key.kb (m i ^ s.key.ke % s.key.kn)) :
    ecbEncEffect s = complete (s.key.ku * k) k
      (((s.noteBlocks ((List.range k).map m)).memWrite s.operand.dstAddr.toNat
          ((List.range k).flatMap fun i => (cb i).take s.key.ku)).memWrite
        s.operand.extAddr.toNat ((List.range k).flatMap fun i => (cb i).drop s.key.ku)) := by
  have hvalues : ecbPlainValues s.key k s.srcBytes = (List.range k).map m := by
    simp only [ecbPlainValues, State.srcBytes, blockOf_memRead, hm]
  simp only [ecbEncEffect, ← hcount, ecbCipherBlocks, hvalues, List.map_map, List.flatMap_map,
    Function.comp_apply, KeyRegs.rsaE, powmod_eq_pow_mod hn, hcb]

/-- RC_ECB_ENC, its preamble passed and its regions legal, answers the fault that its later checks find. -/
theorem exec_rcEcbEnc_of_fault (hkey : s.status.keyValid = true) (hpos : 0 < s.operand.srcLen.toNat)
    (hl : RegionsLegal .rcEcbEnc s) {f : CmdFault}
    (hf : (dstOverflowFault (s.key.ku * s.blockCount) s <|> extOverflowFault s.blockCount s) = some f) :
    exec .rcEcbEnc s = .next (s.faulted f.code.num f.sub f.index f.offset f.expected f.actual) :=
  exec_stream_of_fault (exec_rcEcbEnc s) hkey hpos ((regionFault_or hl _).trans hf)

/-- RC_ECB_ENC, all its checks passed, takes effect. -/
theorem exec_rcEcbEnc_of_fits (hkey : s.status.keyValid = true) (hpos : 0 < s.operand.srcLen.toNat)
    (hl : RegionsLegal .rcEcbEnc s) (hdst : s.key.ku * s.blockCount ≤ s.operand.dstLen.toNat)
    (hext : s.blockCount ≤ s.operand.extLen.toNat) : exec .rcEcbEnc s = .next (ecbEncEffect s) :=
  exec_stream_of_none (exec_rcEcbEnc s) hkey hpos ((regionFault_or hl _).trans (check_or_eq_none.2
    ⟨(dstOverflowFault_eq_none_iff _ s).2 hdst, (extOverflowFault_eq_none_iff _ s).2 hext⟩))

/-- DST and EXT of RC_ECB_ENC are apart, at every length up to their capacities. -/
theorem ecbEnc_outputs_disjoint (hl : RegionsLegal .rcEcbEnc s) {p q : Nat} (hp : 0 < p) (hq : 0 < q)
    (hdst : p ≤ s.operand.dstLen.toNat) (hext : q ≤ s.operand.extLen.toNat) :
    s.operand.dstAddr.toNat + p ≤ s.operand.extAddr.toNat ∨
      s.operand.extAddr.toNat + q ≤ s.operand.dstAddr.toNat := by
  have hapart := hl.2 (dstRegion s) (by simp [regions]) (extRegion true s) (by simp [regions]) rfl
    (by simp [dstRegion, extRegion])
  simp only [dstRegion, extRegion] at hapart
  omega

end Encrypt

/-- Settles O54: the checks in their order, and the two streams stored when all pass. -/
theorem ecbEncryptResult : Obligations.EcbEncryptResult := by
  unfold Obligations.EcbEncryptResult
  refine fun s => ⟨streamPreamble (.inl rfl) s, ?_⟩
  rintro b u l k src dst ext m rfl hu rfl hcount rfl rfl rfl hm hok hkey hpos hl
  obtain rfl : u = s.key.ku := hu
  obtain rfl : k = s.blockCount := hcount
  obtain ⟨⟨hkb, -⟩, ⟨hkn, -⟩, -⟩ := hok.1 hkey
  refine ⟨fun hdst hext => ?_, fun hover => ?_, fun hdst hover => ?_⟩
  · obtain ⟨cb, hcb⟩ : ∃ cb : Nat → Bytes, cb = fun i => beBytes s.key.kb (m i ^ s.key.ke % s.key.kn) :=
      ⟨_, rfl⟩
    have hexec := exec_rcEcbEnc_of_fits hkey hpos hl hdst hext
    rw [ecbEncEffect_eq hkn rfl hm hcb] at hexec
    have hku : s.key.ku = s.key.kb - 1 := rfl
    have hmain (i : Nat) (_ : i < s.blockCount) : ((cb i).take s.key.ku).length = s.key.ku := by
      rw [hcb, List.length_take, beBytes_length]; omega
    have hextra (i : Nat) (_ : i < s.blockCount) : ((cb i).drop s.key.ku).length = 1 := by
      rw [hcb, List.length_drop, beBytes_length]; omega
    have hmains := flatMap_length_const (List.range s.blockCount) _ _
      fun i hi => hmain i (List.mem_range.1 hi)
    have hextras := flatMap_length_const (List.range s.blockCount) _ _
      fun i hi => hextra i (List.mem_range.1 hi)
    rw [List.length_range, Nat.mul_comm] at hmains
    rw [List.length_range, Nat.mul_one] at hextras
    refine ⟨_, hexec, rfl, noteBlocks_blockGeN_iff s _ m, fun x hxdst hxext => ?_, fun i hi => ?_⟩
    · rw [complete_readByte, readByte_memWrite_outside _ _ _ x (by rwa [hextras]),
        readByte_memWrite_outside _ _ _ x (by rwa [hmains]), noteBlocks_readByte]
    · have hin : i * s.key.ku + s.key.ku ≤ s.key.ku * s.blockCount := by
        rw [← Nat.succ_mul, Nat.mul_comm s.key.ku]
        exact Nat.mul_le_mul_right _ hi
      have hapart := ecbEnc_outputs_disjoint hl (by omega) (by omega) hdst hext
      have hlast (s' : State) := memRead_memWrite_whole_blocks s' s.operand.extAddr.toNat hextra hi
      simp only [Nat.mul_one] at hlast
      rw [complete_memRead, complete_memRead, hlast,
        memRead_memWrite_disjoint _ _ _ _ _ (by rw [hextras]; omega),
        memRead_memWrite_whole_blocks _ _ hmain hi, List.take_append_drop, hcb]
  · exact exec_rcEcbEnc_of_fault hkey hpos hl (check_or_eq_some.2 (.inl (if_pos hover)))
  · exact exec_rcEcbEnc_of_fault hkey hpos hl (check_or_eq_some.2 (.inr
      ⟨(dstOverflowFault_eq_none_iff _ s).2 hdst, if_pos hover⟩))

/-! ### RC_ECB_DEC (43_cipher.md R267) -/

/-- The ciphertext values, each of a block of SRC and a byte of EXT. -/
theorem ecbCipherValues_memRead {k : KeyRegs} {n : Nat} (s : State) (a e : Nat) {len : Nat}
    (h : n * k.ku ≤ len) :
    ecbCipherValues k n (s.memRead a len) (s.memRead e n) =
      (List.range n).map fun i => fromBE (s.memRead (a + i * k.ku) k.ku ++ s.memRead (e + i) 1) := by
  refine List.map_congr_left fun i hi => ?_
  have hin : i < n := List.mem_range.1 hi
  have hmain : i * k.ku + k.ku ≤ len := by
    rw [← Nat.succ_mul]
    exact (Nat.mul_le_mul_right _ hin).trans h
  rw [← memRead_eq_blockOf s a hmain, ← memRead_eq_blockOf s e (w := 1) (by omega), Nat.mul_one]

/-- The plaintext blocks of values given by their index. -/
theorem ecbPlainBlocks_map_range (k : KeyRegs) (l n : Nat) (c : Nat → Nat) :
    ecbPlainBlocks k l ((List.range n).map c) =
      (List.range n).map fun i => (min k.ku (l - i * k.ku), beBytes k.kb (k.rsaD (c i))) :=
  List.ext_getElem (by simp [ecbPlainBlocks]) fun i h1 h2 => by simp [ecbPlainBlocks]

/-- DROP_NZ after the discarded bytes of blocks given by their index. -/
theorem noteDropped_dropNz_iff (s : State) (n : Nat) (dropped : Nat → Bytes) :
    (s.noteDropped ((List.range n).flatMap dropped)).status.dropNz = true ↔
      s.status.dropNz = true ∨ ∃ i, i < n ∧ ∃ x ∈ dropped i, x ≠ 0#8 := by
  simp

section Decrypt

variable {s : State} {n : Nat} {c keep : Nat → Nat} {mb : Nat → Bytes}

/-- What RC_ECB_DEC leaves, its blocks given by their index as R267 writes them. -/
theorem ecbDecEffect_eq (hn : 1 ≤ s.key.kn) (hcount : n = s.operand.srcLen.toNat / s.key.ku)
    (hc : c = fun i => fromBE (s.memRead (s.operand.srcAddr.toNat + i * s.key.ku) s.key.ku ++
      s.memRead (s.operand.extAddr.toNat + i) 1))
    (hkeep : keep = fun i => min s.key.ku (s.cipher.plainLen.toNat - i * s.key.ku))
    (hmb : mb = fun i => beBytes s.key.kb (c i ^ s.key.kd % s.key.kn)) :
    ecbDecEffect s = complete s.cipher.plainLen.toNat 0
      (((s.noteBlocks ((List.range n).map c)).noteDropped
          ((List.range n).flatMap fun i => (mb i).take (s.key.kb - keep i))).memWrite
        s.operand.dstAddr.toNat
        ((List.range n).flatMap fun i => (mb i).drop (s.key.kb - keep i))) := by
  have hvalues : ecbCipherValues s.key n s.srcBytes (s.memRead s.operand.extAddr.toNat n) =
      (List.range n).map c := by
    rw [hc]
    exact ecbCipherValues_memRead s _ _ (hcount ▸ Nat.div_mul_le_self _ _)
  simp only [ecbDecEffect, ← hcount, hvalues, ecbPlainBlocks_map_range, List.flatMap_map,
    KeyRegs.rsaD, powmod_eq_pow_mod hn, hmb, hkeep]

/-- RC_ECB_DEC, its preamble passed and its regions legal, answers the fault that its later checks find. -/
theorem exec_rcEcbDec_of_fault (hkey : s.status.keyValid = true) (hpos : 0 < s.operand.srcLen.toNat)
    (hl : RegionsLegal .rcEcbDec s) {f : CmdFault}
    (hf : (ecbDecLengthFault s <|> dstOverflowFault s.cipher.plainLen.toNat s) = some f) :
    exec .rcEcbDec s = .next (s.faulted f.code.num f.sub f.index f.offset f.expected f.actual) :=
  exec_stream_of_fault (exec_rcEcbDec s) hkey hpos ((regionFault_or hl _).trans hf)

/-- RC_ECB_DEC, all its checks passed, takes effect. -/
theorem exec_rcEcbDec_of_fits (hkey : s.status.keyValid = true) (hpos : 0 < s.operand.srcLen.toNat)
    (hl : RegionsLegal .rcEcbDec s) (hlength : ecbDecLengthFault s = none)
    (hfit : s.cipher.plainLen.toNat ≤ s.operand.dstLen.toNat) :
    exec .rcEcbDec s = .next (ecbDecEffect s) :=
  exec_stream_of_none (exec_rcEcbDec s) hkey hpos ((regionFault_or hl _).trans
    (check_or_eq_none.2 ⟨hlength, (dstOverflowFault_eq_none_iff _ s).2 hfit⟩))

end Decrypt

/-- Settles O55: the three length checks and the room in DST in their order, and the kept bytes of each
block stored when all pass. -/
theorem ecbDecryptResult : Obligations.EcbDecryptResult := by
  unfold Obligations.EcbDecryptResult
  refine fun s => ⟨streamPreamble (.inr (.inl rfl)) s, ?_⟩
  rintro b u n k l src dst ext c keep mb rfl hu rfl rfl rfl rfl rfl rfl hc hkeep hmb hok hkey hpos hl
  obtain rfl : u = s.key.ku := hu
  obtain ⟨⟨hkb, -⟩, ⟨hkn, -⟩, -⟩ := hok.1 hkey
  refine ⟨fun hrem => ?_, fun hrem hplain => ?_, fun hrem hlow hhigh hext => ?_,
    fun hrem hlow hhigh hext hover => ?_, fun hrem hlow hhigh hext hfit => ?_⟩
  · exact exec_rcEcbDec_of_fault hkey hpos hl (check_or_eq_some.2 (.inl (if_pos hrem)))
  · exact exec_rcEcbDec_of_fault hkey hpos hl (check_or_eq_some.2 (.inl
      ((if_neg (not_not.2 hrem)).trans (if_pos hplain))))
  · exact exec_rcEcbDec_of_fault hkey hpos hl (check_or_eq_some.2 (.inl
      ((if_neg (not_not.2 hrem)).trans
        ((if_neg (not_or.2 ⟨hlow.not_ge, hhigh.not_gt⟩)).trans (if_pos hext)))))
  · have hlength := (ecbDecLengthFault_eq_none_iff s).2 ⟨hrem, hlow, hhigh, hext⟩
    exact exec_rcEcbDec_of_fault hkey hpos hl (check_or_eq_some.2 (.inr ⟨hlength, if_pos hover⟩))
  · have hlength := (ecbDecLengthFault_eq_none_iff s).2 ⟨hrem, hlow, hhigh, hext⟩
    have hexec := exec_rcEcbDec_of_fits hkey hpos hl hlength hfit
    rw [ecbDecEffect_eq hkn rfl hc hkeep hmb] at hexec
    have hblock (i : Nat) (_ : i < s.operand.srcLen.toNat / s.key.ku) :
        ((mb i).drop (s.key.kb - keep i)).length =
          min s.key.ku (s.cipher.plainLen.toNat - i * s.key.ku) := by
      have hku : s.key.ku = s.key.kb - 1 := rfl
      simp only [hmb, hkeep, List.length_drop, beBytes_length]
      omega
    rw [Nat.mul_comm] at hhigh
    have hall := (length_flatMap_blocks hblock).trans (Nat.min_eq_right hhigh)
    refine ⟨_, hexec, rfl, noteBlocks_blockGeN_iff s _ c, noteDropped_dropNz_iff _ _ _,
      fun x hx => ?_, fun i hi => ?_⟩
    · exact readByte_memWrite_outside _ _ _ x (by rwa [hall])
    · rw [complete_memRead, ← memRead_memWrite_blocks _ _ hblock hhigh hi, hkeep]

end Sys2Proof.Machine
end

section
/-! SUPPORT. The interrupt and DONE_PEND (60_exceptions.md R327, R328): which steps set and which clear
the pending bit, and from it the obligations about the two. -/

namespace Sys2Proof.Machine

/-- Settles O13: by O7's clause for a write to CTRL without SOFT_RESET. -/
theorem interruptIsALevel : Obligations.InterruptIsALevel := by
  unfold Obligations.InterruptIsALevel
  refine fun s => ⟨rfl, fun v rest hsoft hs => ?_⟩
  obtain ⟨-, hctrl, -⟩ := busyRegisterWritesAreDropped s rest
  exact ⟨_, hctrl v hsoft hs, rfl, rfl⟩

/-! ### Completion -/

/-- Every success ends in the success outcome (40_common.md R146). -/
theorem Success.exists_eq_complete {i : Instr} {s t : State} (h : Success i s t) :
    ∃ outLen outExtLen u, t = complete outLen outExtLen u := by
  cases i <;> simp only [Success] at h
  case nop | rcClearKey => exact ⟨_, _, _, h⟩
  case frCrcChunk | rcModexpE | rcModexpD => exact ⟨_, _, _, h.2⟩
  case frWriteChunkStored | frWriteChunkRecomp | frWriteChunkPlace | frWriteSig =>
    exact ⟨_, _, _, h.2.2⟩
  case frReadChunk | rcLoadKey => exact ⟨_, _, _, h.2.2.2⟩
  case sfRefilterNone =>
    obtain ⟨-, -, -, -, ht⟩ := h
    exact ⟨_, _, _, ht⟩
  case sfDefilter =>
    obtain ⟨-, -, -, -, -, ht⟩ := h
    exact ⟨_, _, _, ht⟩
  case frParseDoc =>
    obtain ⟨-, -, ks, -, -, ht⟩ := h
    exact ⟨_, _, _, ht⟩
  case rcEcbEnc | rcEcbDec | rcCfbEnc | rcCfbDec =>
    obtain ⟨-, ⟨-, ht⟩ | ⟨-, -, ht⟩⟩ := h <;> exact ⟨_, _, _, ht⟩

/-- A command completes, by success or by fault (40_common.md R146; 60_exceptions.md R322). -/
theorem exec_completes {i : Instr} {s t : State} (h : exec i s = .next t) :
    t.phase = .idle ∧ t.donePend = true := by
  rcases exec_cases h with ⟨f, rfl⟩ | ⟨-, -, f, rfl⟩ | hs
  · exact ⟨rfl, rfl⟩
  · exact ⟨rfl, rfl⟩
  · obtain ⟨_, _, _, rfl⟩ := hs.exists_eq_complete
    exact ⟨rfl, rfl⟩

theorem performWord_completes {w : Word} {s t : State} (h : performWord w s = .next t) :
    t.phase = .idle ∧ t.donePend = true := by
  rcases performWord_cases h with ⟨i, -, hx⟩ | ⟨-, rfl⟩
  · exact exec_completes hx
  · exact ⟨rfl, rfl⟩

/-! ### The host's side -/

theorem storeReg_donePend (r : Reg) (v : Word) (s : State) :
    (storeReg r v s).donePend = s.donePend := by
  rw [storeReg_frame]

/-- The writes that clear DONE_PEND: an ACK and a soft reset (10_state.md R41, R42). -/
def ClearsDonePend (tr : Transaction) : Prop :=
  (∃ v, tr = .write 0x030 4 v ∧ v % 2 = 1) ∨ ∃ v, tr = .write 0x02C 4 v ∧ v / 2 % 2 = 1

theorem writeRegOffset_donePend (off v : Nat) (s : State) :
    (writeRegOffset off (word v) s).donePend = s.donePend ∨
      ((writeRegOffset off (word v) s).donePend = false ∧ ClearsDonePend (.write off 4 v)) := by
  rcases writeRegOffset_cases off (word v) s with
    ⟨hr, hw⟩ | ⟨hr, hw⟩ | ⟨-, hw⟩ | ⟨-, -, hw⟩ | ⟨-, r, -, hw⟩ | ⟨-, -, hw⟩ <;> rw [hw]
  · obtain rfl : 0x02C = off := Reg.ofOffset_eq_some hr
    cases hbit : (word v).getLsbD 1 with
    | false => exact .inl (by rw [writeCtrl_of_not_softReset hbit])
    | true =>
      rw [writeCtrl_of_softReset hbit]
      rw [word_getLsbD v (by decide), decide_eq_true_eq] at hbit
      exact .inr ⟨rfl, .inr ⟨v, rfl, hbit⟩⟩
  · obtain rfl : 0x030 = off := Reg.ofOffset_eq_some hr
    rw [writeIrqStatus_eq]
    cases hbit : (word v).getLsbD 0 with
    | false => exact .inl (Bool.and_true _)
    | true =>
      rw [word_getLsbD v (by decide), decide_eq_true_eq, Nat.pow_zero, Nat.div_one] at hbit
      exact .inr ⟨Bool.and_false _, .inl ⟨v, rfl, hbit⟩⟩
  · exact .inl rfl
  · exact .inl rfl
  · exact .inl (storeReg_donePend r _ s)
  · exact .inl rfl

/-- A host transaction leaves DONE_PEND, or is one of the writes that clear it. -/
theorem hostStep_donePend (tr : Transaction) (s : State) :
    (hostStep tr s).donePend = s.donePend ∨
      ((hostStep tr s).donePend = false ∧ ClearsDonePend tr) := by
  rw [hostStep, recordAnswer_donePend]
  rcases transact_cases tr s with h | ⟨-, h⟩ | ⟨-, a, size, v, -, h⟩ | ⟨off, v, rfl, h⟩ <;> rw [h]
  · exact .inl rfl
  · exact .inl rfl
  · exact .inl rfl
  · exact writeRegOffset_donePend off v s

theorem statusRead_not_clears : ¬ ClearsDonePend statusRead := by
  rintro (⟨v, h, -⟩ | ⟨v, h, -⟩) <;> cases h

theorem pollStep_donePend (s : State) : (pollStep s).donePend = s.donePend := by
  have hread := (hostStep_donePend statusRead s).resolve_right fun h => statusRead_not_clears h.2
  unfold pollStep
  split <;> exact hread

/-! ### One step -/

/-- The engine moves next and has a command to perform (40_common.md R140, R144; log entry 2). -/
def State.EngineRuns (s : State) : Prop :=
  (∃ w, s.phase = .busy w) ∧ (s.script = [] ∨ ∃ rest, s.script = .engine :: rest)

/-- The next event is an ACK or a reset. -/
def State.ClearsNext (s : State) : Prop :=
  (∃ tr rest, s.script = .bus tr :: rest ∧ ClearsDonePend tr) ∨
    ∃ rest, s.script = .hardReset :: rest

/-- DONE_PEND over a step: the engine's completion sets it, an ACK or a reset clears it, and every
other step leaves it. -/
theorem step_donePend {s t : State} (h : step s = .next t) :
    (s.EngineRuns ∧ t.phase = .idle ∧ t.donePend = true) ∨
    (¬ s.EngineRuns ∧ (t.donePend = s.donePend ∨ (t.donePend = false ∧ s.ClearsNext))) := by
  rcases step_cases h with ⟨w, base, hp, hw, hs⟩ | ⟨hp, hs⟩ | ⟨tr, rest, hs, rfl⟩ |
    ⟨rest, hs, rfl⟩ | ⟨rest, hs, rfl⟩
  · refine .inl ⟨⟨⟨w, hp⟩, ?_⟩, performWord_completes hw⟩
    exact hs.imp And.left fun ⟨rest, hs, _⟩ => ⟨rest, hs⟩
  · refine .inr ⟨by simp [State.EngineRuns, hp], .inl ?_⟩
    rcases hs with ⟨-, rfl⟩ | ⟨rest, -, rfl⟩ <;> rfl
  · refine .inr ⟨by simp [State.EngineRuns, hs], (hostStep_donePend tr _).imp_right ?_⟩
    exact fun ⟨hf, hc⟩ => ⟨hf, .inl ⟨tr, rest, hs, hc⟩⟩
  · exact .inr ⟨by simp [State.EngineRuns, hs], .inl (pollStep_donePend _)⟩
  · exact .inr ⟨by simp [State.EngineRuns, hs], .inr ⟨rfl, .inr ⟨rest, hs⟩⟩⟩

/-- Settles O14: by what a step does to DONE_PEND. -/
theorem donePendLifetime : Obligations.DonePendLifetime := by
  unfold Obligations.DonePendLifetime
  intro s t h
  rcases step_donePend h with ⟨⟨hbusy, hturn⟩, hidle, hset⟩ | ⟨hno, heq | ⟨hf, hclears⟩⟩
  · exact ⟨fun _ hf => by simp [hset] at hf, fun _ _ _ => hset, fun _ _ => ⟨hbusy, hidle, hturn⟩⟩
  · exact ⟨fun hs ht => by simp [heq, hs] at ht, fun w hp hturn => absurd ⟨⟨w, hp⟩, hturn⟩ hno,
      fun hs ht => by simp [heq, hs] at ht⟩
  · refine ⟨fun _ _ => ?_, fun w hp hturn => absurd ⟨⟨w, hp⟩, hturn⟩ hno,
      fun _ ht => by simp [hf] at ht⟩
    rcases hclears with ⟨_, rest, hs, ⟨v, rfl, hv⟩ | ⟨v, rfl, hv⟩⟩ | hhard
    · exact .inl ⟨v, rest, hs, hv⟩
    · exact .inr (.inl ⟨v, rest, hs, hv⟩)
    · exact .inr (.inr hhard)

end Sys2Proof.Machine
end

section
/-! SUPPORT. Bus errors (20_memory.md R81 to R84; 60_exceptions.md R330): which transactions are refused,
what a refusal leaves, and from it the obligation. -/

namespace Sys2Proof.Machine

section Refusal

variable {s : State} {off size v : Nat} {tr : Transaction}

/-- A transaction over neither area, or over the edge of one, is in none (20_memory.md R81). -/
theorem areaOf_outside (p : Params) (hreg : ¬ off + size ≤ 0x1000)
    (hbuf : ¬ (0x01000000 ≤ off ∧ off + size ≤ 0x01000000 + p.memBytes)) :
    areaOf p off size = .outside := by
  rw [areaOf, if_neg (fun h => hreg h.2), if_neg (fun h => hbuf ⟨h.1, h.2.2⟩)]

theorem transact_outside (hreg : ¬ off + size ≤ 0x1000)
    (hbuf : ¬ (0x01000000 ≤ off ∧ off + size ≤ 0x01000000 + s.params.memBytes))
    (ht : tr = .read off size ∨ tr = .write off size v) : transact tr s = (.busError, s) := by
  have harea := areaOf_outside s.params hreg hbuf
  rcases ht with rfl | rfl <;> simp [transact, harea]

/-- All bytes of the transaction lie in the buffer. -/
def InBuffer (s : State) (off size : Nat) : Prop :=
  0x01000000 ≤ off ∧ off + size ≤ 0x01000000 + s.params.memBytes

/-- The transactions that answer BusError (60_exceptions.md R330). -/
def Refused (s : State) (off size : Nat) : Prop :=
  (¬ off + size ≤ 0x1000 ∧ ¬ InBuffer s off size) ∨
  (off + size ≤ 0x1000 ∧ ¬ (size = 4 ∧ off % 4 = 0)) ∨
  (InBuffer s off size ∧ (off % size ≠ 0 ∨ s.phase ≠ .idle))

/-- A refused transaction leaves the state, but that an access to the buffer while a command is in
progress sets BUF_BLOCKED; every other one is served. -/
theorem transact_refused_or_served (hz : size = 1 ∨ size = 2 ∨ size = 4)
    (ht : tr = .read off size ∨ tr = .write off size v) :
    (Refused s off size ∧
      ((¬ (s.phase ≠ .idle ∧ InBuffer s off size) ∧ transact tr s = (.busError, s)) ∨
        ((s.phase ≠ .idle ∧ InBuffer s off size) ∧
          transact tr s = (.busError, setBufBlocked s)))) ∨
    (¬ Refused s off size ∧ (transact tr s).1 ≠ .busError) := by
  by_cases hreg : off + size ≤ 0x1000
  · have hbuf : ¬ InBuffer s off size := by unfold InBuffer; omega
    by_cases hacc : size = 4 ∧ off % 4 = 0
    · refine .inr ⟨by unfold Refused; tauto, ?_⟩
      obtain ⟨rfl, hal⟩ := hacc
      rcases ht with rfl | rfl
      · simp [transact_reg_read s hal hreg]
      · simp [transact_reg_write s v hal hreg]
    · exact .inl ⟨.inr (.inl ⟨hreg, hacc⟩),
        .inl ⟨fun h => hbuf h.2, transact_reg_misaligned s hreg hacc hz ht⟩⟩
  · by_cases hbuf : InBuffer s off size
    · have hin := hbuf
      obtain ⟨hlo, hhi⟩ := hbuf
      obtain ⟨a, rfl⟩ := Nat.exists_eq_add_of_le hlo
      have ha : a + size ≤ s.params.memBytes := by omega
      have hmod : (0x01000000 + a) % size = a % size := by
        rcases hz with rfl | rfl | rfl <;> omega
      cases hb : s.busy with
      | true =>
        have hp := (busy_eq_true_iff s).1 hb
        exact .inl ⟨.inr (.inr ⟨hin, .inr hp⟩), .inr ⟨⟨hp, hin⟩, transact_buffer_busy hb hz ha ht⟩⟩
      | false =>
        have hp := (busy_eq_false_iff s).1 hb
        by_cases hm : a % size = 0
        · refine .inr ⟨by simp [Refused, hreg, hin, hmod, hm, hp], ?_⟩
          rcases ht with rfl | rfl
          · simp [transact_buffer_read hb hz ha hm]
          · simp [transact_buffer_write hb hz ha hm]
        · exact .inl ⟨.inr (.inr ⟨hin, .inl (by rwa [hmod])⟩),
            .inl ⟨fun h => h.1 hp, transact_buffer_misaligned hb hz ha hm ht⟩⟩
    · exact .inl ⟨.inl ⟨hreg, hbuf⟩, .inl ⟨fun h => hbuf h.2, transact_outside hreg hbuf ht⟩⟩

end Refusal

/-- Settles O10: a transaction is refused, and then leaves at most BUF_BLOCKED, or it is served. -/
theorem busErrorIsNoFault : Obligations.BusErrorIsNoFault := by
  unfold Obligations.BusErrorIsNoFault
  intro s u rest off size v tr hz ht hs hu
  rw [step_bus hs, hostStep] at hu
  rcases transact_refused_or_served (s := { s with script := rest }) hz ht with
    ⟨hr, ⟨hno, htr⟩ | ⟨hblocked, htr⟩⟩ | ⟨hr, hserved⟩
  · rw [htr] at hu
    obtain rfl := Host.Outcome.next.inj hu
    exact ⟨iff_of_true rfl hr, fun _ => ⟨rfl, rfl, fun h => absurd h hno, fun _ => rfl⟩⟩
  · rw [htr] at hu
    obtain rfl := Host.Outcome.next.inj hu
    exact ⟨iff_of_true rfl hr, fun _ => ⟨rfl, rfl, fun _ => rfl, fun h => absurd hblocked h⟩⟩
  · obtain rfl := Host.Outcome.next.inj hu
    have hne : (transact tr { s with script := rest }).1 ::
        (transact tr { s with script := rest }).2.answers ≠ .busError :: s.answers :=
      fun h => hserved (List.cons.inj h).1
    exact ⟨iff_of_false hne hr, fun h => absurd h hne⟩

end Sys2Proof.Machine
end

section
/-! SUPPORT. The faults of the commands (60_exceptions.md R320 to R322): every sub-code fits its field,
which faults FR_PARSE_DOC raises after its validation checks, and from it the obligation. -/

namespace Sys2Proof.Machine

/-! ### Sub-codes -/

/-- The fault of a check, if there is one, has a sub-code of 8 bits (60_exceptions.md R322). -/
def SubFits (check : Option CmdFault) : Prop := ∀ f, check = some f → f.sub < 256

theorem SubFits.none : SubFits none := fun _ h => nomatch h

theorem SubFits.some {f : CmdFault} (h : f.sub < 256) : SubFits (some f) := fun _ hf =>
  Option.some.inj hf ▸ h

theorem SubFits.ite {p : Prop} [Decidable p] {a b : Option CmdFault} (ha : SubFits a)
    (hb : SubFits b) : SubFits (if p then a else b) := by
  split
  · exact ha
  · exact hb

theorem SubFits.or {a b : Option CmdFault} (ha : SubFits a) (hb : SubFits b) : SubFits (a <|> b) :=
  fun f h => (check_or_eq_some.1 h).elim (ha f) fun h => hb f h.2

theorem SubFits.findSome? {α : Type} {l : List α} {g : α → Option CmdFault}
    (h : ∀ x, SubFits (g x)) : SubFits (l.findSome? g) := fun f hf =>
  let ⟨x, _, hx⟩ := List.exists_of_findSome?_eq_some hf
  h x f hx

theorem RegionId.num_le (r : RegionId) : r.num ≤ 4 := by
  cases r <;> decide

theorem regionFault_subFits (i : Instr) (s : State) : SubFits (regionFault i s) := by
  refine .or (fun f h => ?_) (.findSome? fun p => ?_)
  · obtain ⟨r, -, rfl⟩ := Option.map_eq_some_iff.1 h
    exact lt_of_le_of_lt r.id.num_le (by decide)
  · unfold pairFault
    split
    · refine .ite (.some ?_) .none
      have h1 := p.1.num_le
      have h2 := p.2.num_le
      simp only [overlapSub_eq]
      omega
    · exact .none

section Checks

variable (s : State)

theorem dstOverflowFault_subFits (n : Nat) : SubFits (dstOverflowFault n s) :=
  .ite (.some (by simp)) .none

theorem extOverflowFault_subFits (n : Nat) : SubFits (extOverflowFault n s) :=
  .ite (.some (by simp)) .none

theorem keyNotLoadedFault_subFits : SubFits (keyNotLoadedFault s) := .ite .none (.some (by simp))

theorem bppFault_subFits : SubFits (bppFault s) := .ite .none (.some (by simp))

theorem cursorFault_subFits : SubFits (cursorFault s) := .ite (.some (by simp)) .none

theorem keyBitsFault_subFits : SubFits (keyBitsFault s) := .ite (.some (by simp)) .none

theorem keyInvalidFault_subFits : SubFits (keyInvalidFault s) := .ite (.some (by simp)) .none

theorem blockLenFault_subFits : SubFits (blockLenFault s) := .ite (.some (by simp)) .none

theorem pixelDataFault_subFits : SubFits (pixelDataFault s) := .ite (.some (by simp)) .none

theorem rawLengthFault_subFits : SubFits (rawLengthFault s) := .ite (.some (by simp)) .none

theorem filterTypeFault_subFits : SubFits (filterTypeFault s) :=
  .findSome? fun _ => .ite (.some (by simp)) .none

theorem signatureFault_subFits : SubFits (signatureFault s) :=
  .ite (.some (by simp)) (.findSome? fun _ => .ite .none (.some (by simp)))

theorem truncationFault_subFits (i c : Nat) : SubFits (truncationFault s i c) :=
  .ite (.some (by simp)) (.ite (.some (by simp)) (.ite (.some (by simp))
    (.ite (.some (by simp)) .none)))

theorem ecbDecLengthFault_subFits : SubFits (ecbDecLengthFault s) :=
  .ite (.some (by simp)) (.ite (.some (by simp)) (.ite (.some (by simp)) .none))

theorem writeChunkFault_subFits (i : Instr) : SubFits (writeChunkFault i s) :=
  .or (regionFault_subFits i s) (dstOverflowFault_subFits s _)

theorem ecbEncFault_subFits : SubFits (ecbEncFault s) :=
  .or (regionFault_subFits _ s) (.or (dstOverflowFault_subFits s _) (extOverflowFault_subFits s _))

theorem ecbDecFault_subFits : SubFits (ecbDecFault s) :=
  .or (regionFault_subFits _ s) (.or (ecbDecLengthFault_subFits s) (dstOverflowFault_subFits s _))

theorem cfbFault_subFits (i : Instr) : SubFits (cfbFault i s) :=
  .or (regionFault_subFits i s) (dstOverflowFault_subFits s _)

theorem modexpFault_subFits (i : Instr) : SubFits (modexpFault i s) :=
  .or (keyNotLoadedFault_subFits s) (.or (blockLenFault_subFits s)
    (.or (regionFault_subFits i s) (dstOverflowFault_subFits s _)))

end Checks

/-! ### The execution faults of FR_PARSE_DOC (41_framer.md R178, R181, R182) -/

/-- What the chunk loop raises: no IEND, a truncated record, or a full table. -/
theorem parseLoop_error {s : State} {fuel pos : Nat} {ks : List Chunk} {f : CmdFault}
    (h : parseLoop s fuel pos ks = .error f) :
    (∃ i c, f = missingIend i c) ∨ (∃ i c, truncationFault s i c = some f) ∨
      ∃ i c, f = tableOverflow s i c := by
  induction fuel generalizing pos ks with
  | zero => exact .inl ⟨_, _, (Except.error.inj h).symm⟩
  | succ fuel ih =>
    rw [parseLoop] at h
    split at h
    · exact .inl ⟨_, _, (Except.error.inj h).symm⟩
    · split at h
      · next g hg => exact .inr (.inl ⟨_, _, Except.error.inj h ▸ hg⟩)
      · simp only at h
        split_ifs at h
        · exact .inr (.inr ⟨_, _, (Except.error.inj h).symm⟩)
        · exact ih h

theorem requireIhdr_error {ks : List Chunk} {f : CmdFault} (h : requireIhdr ks = .error f) :
    f = missingIhdr ks.length := by
  unfold requireIhdr at h
  split at h
  · cases h
  · exact (Except.error.inj h).symm

/-- An execution fault of FR_PARSE_DOC: its code is none of the validation checks' (60_exceptions.md
R322), and its sub-code fits. -/
def IsExecutionFault (f : CmdFault) : Prop :=
  (f.code = .truncatedChunk ∨ f.code = .missingRequiredChunk ∨ f.code = .dstOverflow) ∧ f.sub < 256

theorem parseLoop_error_isExecutionFault {s : State} {fuel pos : Nat} {ks : List Chunk} {f : CmdFault}
    (h : parseLoop s fuel pos ks = .error f) : IsExecutionFault f := by
  rcases parseLoop_error h with ⟨i, c, rfl⟩ | ⟨i, c, ht⟩ | ⟨i, c, rfl⟩
  · exact ⟨.inr (.inl rfl), by simp [missingIend]⟩
  · exact ⟨.inl (truncationFault_code ht), truncationFault_subFits s i c f ht⟩
  · exact ⟨.inr (.inr rfl), by simp [tableOverflow]⟩

theorem parseDocRun_fault_or_success (s : State) :
    (∃ f, IsExecutionFault f ∧ parseDocRun s = parseDocFault f s) ∨
      (parseDocRun s).status.err = s.status.err := by
  unfold parseDocRun
  split
  · next f hf => exact .inl ⟨f, parseLoop_error_isExecutionFault hf, rfl⟩
  · split
    · next f hf =>
      obtain rfl := requireIhdr_error hf
      exact .inl ⟨_, ⟨.inr (.inl rfl), by simp [missingIhdr]⟩, rfl⟩
    · exact .inr rfl

/-! ### The faults of every command -/

/-- A fault of a check, taken from the state `base`. -/
def CheckFaulted (base t : State) : Prop := ∃ f : CmdFault, f.sub < 256 ∧ t = takeFault f base

section Templates

variable {s t : State} {effect : State → State}

theorem runChecked_fault_or_effect {check : Option CmdFault} (hc : SubFits check)
    (h : runChecked check effect s = .next t) : CheckFaulted s t ∨ t = effect s :=
  (runChecked_next.1 h).imp (fun ⟨f, hf, ht⟩ => ⟨f, hc f hf, ht⟩) And.right

theorem runChecked_fault_or_success {check : Option CmdFault} (hc : SubFits check)
    (h : runChecked check effect s = .next t) (he : (effect s).status.err = s.status.err) :
    CheckFaulted s t ∨ t.status.err = s.status.err :=
  (runChecked_fault_or_effect hc h).imp_right fun ht => by rw [ht, he]

theorem runStream_fault_or_success {check : State → Option CmdFault} (hc : SubFits (check s))
    (h : runStream check effect s = .next t) (he : (effect s).status.err = s.status.err) :
    CheckFaulted s t ∨ t.status.err = s.status.err := by
  rcases runStream_next.1 h with ⟨-, rfl⟩ | ⟨-, -, rfl⟩ | ⟨-, -, ⟨f, hf, rfl⟩ | ⟨-, rfl⟩⟩
  · exact .inl ⟨_, by decide, rfl⟩
  · exact .inr rfl
  · exact .inl ⟨f, hc f hf, rfl⟩
  · exact .inr he

end Templates

theorem execRcLoadKey_fault_or_success {s t : State} (h : execRcLoadKey s = .next t) :
    CheckFaulted (clearKey s) t ∨ t.status.err = s.status.err := by
  have hc : SubFits (keyBitsFault s <|> regionFault .rcLoadKey s <|> keyInvalidFault s) :=
    .or (keyBitsFault_subFits s) (.or (regionFault_subFits _ s) (keyInvalidFault_subFits s))
  unfold execRcLoadKey at h
  split at h
  · next f hf => exact .inl ⟨f, hc f hf, (Host.Outcome.next.inj h).symm⟩
  · exact .inr (Host.Outcome.next.inj h ▸ rfl)

/-- A command answers the fault of one of its checks, an execution fault of FR_PARSE_DOC, or a success,
which leaves ERR. -/
theorem exec_fault_or_success {i : Instr} {s t : State} (h : exec i s = .next t) :
    CheckFaulted (faultBase i s) t ∨
    (i = .frParseDoc ∧ ∃ f, IsExecutionFault f ∧ t = parseDocFault f s) ∨
    t.status.err = s.status.err := by
  by_cases hi : i = .frParseDoc
  · subst hi
    simp only [exec] at h
    rcases runChecked_fault_or_effect
      (.or (regionFault_subFits _ s) (signatureFault_subFits s)) h with hf | rfl
    · exact .inl hf
    · exact .inr ((parseDocRun_fault_or_success s).imp_left fun hf => ⟨rfl, hf⟩)
  · refine Or.imp_right .inr ?_
    cases i <;> simp only [exec] at h
    case nop | rcClearKey => exact .inr (Host.Outcome.next.inj h ▸ rfl)
    case frParseDoc => exact absurd rfl hi
    case frReadChunk =>
      exact runChecked_fault_or_success (.or (cursorFault_subFits s)
        (.or (regionFault_subFits _ s) (truncationFault_subFits s _ _))) h rfl
    case frWriteChunkStored | frWriteChunkRecomp | frWriteChunkPlace =>
      exact runChecked_fault_or_success (writeChunkFault_subFits s _) h rfl
    case frCrcChunk => exact runChecked_fault_or_success (regionFault_subFits _ s) h rfl
    case frWriteSig =>
      exact runChecked_fault_or_success
        (.or (regionFault_subFits _ s) (dstOverflowFault_subFits s _)) h rfl
    case sfDefilter =>
      exact runChecked_fault_or_success (.or (bppFault_subFits s)
        (.or (regionFault_subFits _ s) (.or (pixelDataFault_subFits s) (.or (dstOverflowFault_subFits s _)
          (filterTypeFault_subFits s))))) h rfl
    case sfRefilterNone =>
      exact runChecked_fault_or_success (.or (bppFault_subFits s)
        (.or (regionFault_subFits _ s) (.or (rawLengthFault_subFits s) (dstOverflowFault_subFits s _)))) h rfl
    case rcLoadKey => exact execRcLoadKey_fault_or_success h
    case rcEcbEnc => exact runStream_fault_or_success (ecbEncFault_subFits s) h rfl
    case rcEcbDec => exact runStream_fault_or_success (ecbDecFault_subFits s) h rfl
    case rcCfbEnc | rcCfbDec => exact runStream_fault_or_success (cfbFault_subFits s _) h rfl
    case rcModexpE | rcModexpD =>
      exact runChecked_fault_or_success (modexpFault_subFits s _) h rfl

/-- Settles O28: the fault of a check has the whole state written out; an execution fault of FR_PARSE_DOC
has a code of its own and leaves what is outside DST. -/
theorem faultsChangeNothingElse : Obligations.FaultsChangeNothingElse := by
  unfold Obligations.FaultsChangeNothingElse
  intro i s t he h ht
  rcases exec_fault_or_success h with ⟨f, hsub, rfl⟩ | ⟨rfl, f, ⟨hcode, hsub⟩, rfl⟩ | herr
  · obtain ⟨hlow, hhigh⟩ := f.code.num_range
    refine ⟨f.code.num, f.sub, f.index, f.offset, f.expected, f.actual, hlow, hhigh, hsub,
      fun _ => takeFault_eq_faulted f _, ?_⟩
    rintro rfl
    exact ⟨takeFault_eq_faulted f s, frParseDoc_unchangedOutside h⟩
  · obtain ⟨hlow, hhigh⟩ := f.code.num_range
    refine ⟨f.code.num, f.sub, f.index, f.offset, f.expected, f.actual, hlow, hhigh, hsub,
      fun hvalidation => ?_, fun _ => ⟨parseDocFault_eq_faulted f s, frParseDoc_unchangedOutside h⟩⟩
    rcases hcode with hc | hc | hc <;> simp [hc, FaultCode.num] at hvalidation
  · simp [herr, he] at ht

end Sys2Proof.Machine
end

section
/-! SUPPORT. The resets (70_reset_and_hazards.md R360 to R363): what an abort leaves of the buffer, what a
step of each reset leaves of the state, and from it the obligations about the two. -/

namespace Sys2Proof.Machine

/-! ### The regions of an abort -/

@[simp] theorem drawRegions_cons (r : Region) (rs : List Region) (s : State) :
    drawRegions (r :: rs) s = drawRegions rs (s.drawRegion r.addr r.len) := rfl

@[simp] theorem drawRegions_script (rs : List Region) (s : State) :
    (drawRegions rs s).script = s.script := by
  induction rs generalizing s with
  | nil => rfl
  | cons r rs ih => exact ih (s.drawRegion r.addr r.len)

theorem draws_le_drawRegions (rs : List Region) (s : State) : s.draws ≤ (drawRegions rs s).draws := by
  induction rs generalizing s with
  | nil => exact Nat.le_refl _
  | cons r rs ih => exact Nat.le_of_succ_le (ih (s.drawRegion r.addr r.len))

/-- Outside every region a byte is kept. -/
theorem readByte_drawRegions_outside {rs : List Region} {x : Nat} (s : State)
    (hout : ∀ r ∈ rs, ¬ (r.addr ≤ x ∧ x < r.addr + r.len)) :
    (drawRegions rs s).readByte x = s.readByte x := by
  induction rs generalizing s with
  | nil => rfl
  | cons r rs ih =>
    obtain ⟨hhead, htail⟩ := List.forall_mem_cons.1 hout
    have hkept : (s.drawRegion r.addr r.len).readByte x = s.readByte x := by
      rw [readByte_drawRegion, if_neg fun ⟨hlo, hhi, _⟩ => hhead ⟨hlo, hhi⟩]
    rw [drawRegions_cons, ih _ htail, hkept]

/-- Inside a region a byte of the buffer is the draw of the last region that holds it. -/
theorem readByte_drawRegions_inside {rs : List Region} {x : Nat} (s : State)
    (hx : x < s.params.memBytes) (hin : ∃ r ∈ rs, r.addr ≤ x ∧ x < r.addr + r.len) :
    ∃ n, s.draws ≤ n ∧ n < (drawRegions rs s).draws ∧
      (drawRegions rs s).readByte x = Config.freeByte n x := by
  induction rs generalizing s with
  | nil => simp at hin
  | cons r rs ih =>
    by_cases htail : ∃ q ∈ rs, q.addr ≤ x ∧ x < q.addr + q.len
    · obtain ⟨n, hlow, hhigh, hbyte⟩ := ih (s.drawRegion r.addr r.len) hx htail
      exact ⟨n, Nat.le_of_succ_le hlow, hhigh, hbyte⟩
    · obtain ⟨hlo, hhi⟩ := ((List.exists_mem_cons_iff _ _ _).1 hin).resolve_right htail
      refine ⟨s.draws, Nat.le_refl _, draws_le_drawRegions rs (s.drawRegion r.addr r.len), ?_⟩
      rw [drawRegions_cons, readByte_drawRegions_outside _ fun q hq hxq => htail ⟨q, hq, hxq⟩,
        readByte_drawRegion, if_pos ⟨hlo, hhi, hx⟩]

theorem mem_writeRegions {i : Instr} {s : State} {r : Region} :
    r ∈ writeRegions i s ↔ r ∈ regions i s ∧ r.writes = true := List.mem_filter

/-! ### The abort -/

theorem abortMemory_of_idle {s : State} (hp : s.phase = .idle) : abortMemory s = s := by
  simp only [abortMemory, hp]

theorem abortMemory_of_decode {s : State} {w : Word} {i : Instr} (hp : s.phase = .busy w)
    (hd : decode w = .ok i) : abortMemory s = drawRegions (writeRegions i s) s := by
  simp only [abortMemory, hp, hd]

theorem abortMemory_of_illegal {s : State} {w : Word} {e : DecodeError} (hp : s.phase = .busy w)
    (hd : decode w = .error e) : abortMemory s = s := by
  simp only [abortMemory, hp, hd]

@[simp] theorem abortMemory_script (s : State) : (abortMemory s).script = s.script := by
  unfold abortMemory
  split
  · rfl
  · split
    · exact drawRegions_script _ s
    · rfl

/-- An abort keeps what the command in progress does not write (70_reset_and_hazards.md R363). -/
theorem readByte_abortMemory_outside {s : State} {w : Word} {x : Nat} (hp : s.phase = .busy w)
    (hout : ∀ i, decode w = .ok i → ∀ r ∈ regions i s, r.writes = true →
      ¬ (r.addr ≤ x ∧ x < r.addr + r.len)) :
    (abortMemory s).readByte x = s.readByte x := by
  cases hd : decode w with
  | error e => rw [abortMemory_of_illegal hp hd]
  | ok i =>
    rw [abortMemory_of_decode hp hd]
    refine readByte_drawRegions_outside s fun r hr => ?_
    obtain ⟨hmem, hwrites⟩ := mem_writeRegions.1 hr
    exact hout i hd r hmem hwrites

/-- An abort leaves a fresh draw in each byte that the command in progress could have written
(70_reset_and_hazards.md R363). -/
theorem readByte_abortMemory_inside {s : State} {w : Word} {i : Instr} {r : Region} {x : Nat}
    (hp : s.phase = .busy w) (hd : decode w = .ok i) (hr : r ∈ regions i s) (hwrites : r.writes = true)
    (hin : r.addr ≤ x ∧ x < r.addr + r.len) (hx : x < s.params.memBytes) :
    ∃ n, s.draws ≤ n ∧ n < (abortMemory s).draws ∧
      (abortMemory s).readByte x = Config.freeByte n x := by
  rw [abortMemory_of_decode hp hd]
  exact readByte_drawRegions_inside s hx ⟨r, mem_writeRegions.2 ⟨hr, hwrites⟩, hin⟩

/-! ### The steps of the two resets -/

theorem step_write_softReset {s : State} {v : Nat} {rest : List Event} (hv : v / 2 % 2 = 1)
    (hs : s.script = .bus (.write 0x02C 4 v) :: rest) :
    step s = .next (recordAnswer .ok (softReset { s with script := rest })) := by
  have hbit : (word v).getLsbD 1 = true := (word_getLsbD v (by decide)).trans (decide_eq_true hv)
  rw [step_write_reg (by decide) (by decide) hs, writeRegOffset_ctrl, writeCtrl_of_softReset hbit]

theorem softReset_script (s : State) : (softReset s).script = s.script := abortMemory_script s

/-- The registers that a soft reset sets are none of the memory. -/
theorem softReset_readByte (s : State) (x : Nat) :
    (softReset s).readByte x = (abortMemory s).readByte x := rfl

theorem step_hardReset {s : State} {rest : List Event} (hs : s.script = .hardReset :: rest) :
    step s = .next (hardReset { s with script := rest }) := by
  simp only [step, hs, runEvent]

theorem hardReset_atResetValues (s : State) : AtResetValues (hardReset s) :=
  resetRegs_atResetValues { s with mem := [], memDraw := s.draws, draws := s.draws + 1 }

theorem hardReset_readByte (s : State) (x : Nat) : (hardReset s).readByte x = Config.freeByte s.draws x :=
  rfl

/-- Settles O19: the step is the hardware reset, which empties the memory onto a new batch of draws. -/
theorem hardResetDrawsMemory : Obligations.HardResetDrawsMemory := by
  unfold Obligations.HardResetDrawsMemory
  intro s rest hs
  exact ⟨_, step_hardReset hs, hardReset_atResetValues _, rfl, rfl, rfl, Nat.lt_succ_self _,
    hardReset_readByte _⟩

/-- Settles O18: a soft reset's memory is the abort's, which draws exactly the write regions of the command
in progress; the last clause is O19's. -/
theorem softResetKeepsMemory : Obligations.SoftResetKeepsMemory := by
  unfold Obligations.SoftResetKeepsMemory
  refine ⟨fun s v rest hv hs => ?_, fun s rest hs => ?_⟩
  · refine ⟨_, step_write_softReset hv hs, softReset_script _,
      congrArg (BusAnswer.ok :: ·) (softReset_answers { s with script := rest }),
      (softReset_atResetValues _).recordAnswer .ok, rfl, rfl, rfl, rfl, fun hp x => ?_,
      fun w hp x hout => ?_, fun w i hp hd r hr hwrites x hlo hhi hx => ?_⟩
    all_goals rw [recordAnswer_readByte, softReset_readByte]
    · rw [abortMemory_of_idle (s := { s with script := rest }) hp]
      rfl
    · exact readByte_abortMemory_outside (s := { s with script := rest }) hp hout
    · exact readByte_abortMemory_inside (s := { s with script := rest }) hp hd hr hwrites ⟨hlo, hhi⟩ hx
  · obtain ⟨t, hstep, hreset, -, -, -, -, hdraw⟩ := hardResetDrawsMemory s rest hs
    exact ⟨t, hstep, hreset, hdraw⟩

end Sys2Proof.Machine
end

section
/-! SUPPORT. The frame of the commands (10_state.md; 20_memory.md R89; 40_common.md R144 to R146): which
registers and which bytes a command leaves, that it always completes, and from it the obligations about
the frame, the outputs and the completion. -/

namespace Sys2Proof.Machine

/-! ### The registers a command leaves -/

/-- What no command changes, and of the rest what command `i` leaves. -/
def CommandFrame (i : Instr) (s t : State) : Prop :=
  (t.params = s.params ∧ t.lastCmd = s.lastCmd ∧ t.irqEn = s.irqEn ∧ t.operand = s.operand ∧
    t.filter = s.filter ∧ t.cipher = s.cipher ∧ t.script = s.script ∧ t.answers = s.answers ∧
    t.memDraw = s.memDraw ∧ t.status.busyWrite = s.status.busyWrite ∧
    t.status.bufBlocked = s.status.bufBlocked ∧
    t.framer.crcPlaceholder = s.framer.crcPlaceholder) ∧
  (i ≠ .frReadChunk →
    t.framer.cursor = s.framer.cursor ∧ t.framer.chLen = s.framer.chLen ∧
    t.framer.chType = s.framer.chType ∧ t.framer.chCrc = s.framer.chCrc ∧
    t.framer.chDataAddr = s.framer.chDataAddr) ∧
  (i ≠ .frReadChunk → i ≠ .frWriteChunkRecomp → i ≠ .frCrcChunk →
    t.framer.chCrcCalc = s.framer.chCrcCalc) ∧
  (i ≠ .frParseDoc →
    t.framer.docNchunks = s.framer.docNchunks ∧ t.framer.docTrailOff = s.framer.docTrailOff ∧
    t.framer.docTrailLen = s.framer.docTrailLen ∧ t.framer.docFlags = s.framer.docFlags ∧
    t.framer.docCrcBad = s.framer.docCrcBad) ∧
  (i ≠ .rcLoadKey → i ≠ .rcClearKey →
    t.key = s.key ∧ t.status.keyValid = s.status.keyValid ∧
    t.status.keyNarrow = s.status.keyNarrow) ∧
  (i ≠ .rcEcbEnc → i ≠ .rcEcbDec → i ≠ .rcModexpE → i ≠ .rcModexpD →
    t.status.blockGeN = s.status.blockGeN) ∧
  (i ≠ .rcEcbDec → t.status.dropNz = s.status.dropNz)

namespace CommandFrame

variable {i : Instr} {s t : State}

@[refl] theorem refl (i : Instr) (s : State) : CommandFrame i s s := by simp [CommandFrame]

theorem memWrite (h : CommandFrame i s t) (a : Nat) (bs : Bytes) :
    CommandFrame i s (t.memWrite a bs) := h

theorem drawRegion (h : CommandFrame i s t) (a n : Nat) : CommandFrame i s (t.drawRegion a n) := h

theorem complete (h : CommandFrame i s t) (outLen outExtLen : Nat) :
    CommandFrame i s (complete outLen outExtLen t) := h

theorem takeFault (h : CommandFrame i s t) (f : CmdFault) : CommandFrame i s (takeFault f t) := h

end CommandFrame

theorem faultBase_frame (i : Instr) (s : State) : CommandFrame i s (faultBase i s) := by
  unfold faultBase
  split
  next hi => simp [CommandFrame, hi, State.withoutKey]
  next => rfl

/-- A success keeps its command's frame, and takes no free draw. -/
theorem Success.frame_and_draws {i : Instr} {s t : State} (h : Success i s t) :
    CommandFrame i s t ∧ t.draws = s.draws := by
  cases i <;> simp only [Success] at h
  case nop => exact h ▸ ⟨(CommandFrame.refl _ s).complete 0 0, rfl⟩
  case frReadChunk =>
    obtain ⟨-, -, -, rfl⟩ := h
    exact ⟨by simp [CommandFrame, readChunkEffect], rfl⟩
  case frParseDoc =>
    obtain ⟨-, -, ks, -, -, rfl⟩ := h
    exact ⟨by simp [CommandFrame, parseDocEffect], rfl⟩
  case frWriteChunkRecomp =>
    obtain ⟨-, -, rfl⟩ := h
    exact ⟨by simp [CommandFrame, writeRecord], rfl⟩
  case frWriteChunkStored | frWriteChunkPlace | frWriteSig =>
    obtain ⟨-, -, rfl⟩ := h
    exact ⟨((CommandFrame.refl _ s).memWrite _ _).complete _ _, rfl⟩
  case frCrcChunk =>
    obtain ⟨-, rfl⟩ := h
    exact ⟨by simp [CommandFrame], rfl⟩
  case sfDefilter =>
    obtain ⟨-, -, -, -, -, rfl⟩ := h
    exact ⟨((CommandFrame.refl _ s).memWrite _ _).complete _ _, rfl⟩
  case sfRefilterNone =>
    obtain ⟨-, -, -, -, rfl⟩ := h
    exact ⟨((CommandFrame.refl _ s).memWrite _ _).complete _ _, rfl⟩
  case rcLoadKey =>
    obtain ⟨-, -, -, rfl⟩ := h
    exact ⟨by simp [CommandFrame, loadKeyEffect], rfl⟩
  case rcClearKey =>
    subst h
    exact ⟨by simp [CommandFrame], rfl⟩
  case rcModexpE | rcModexpD =>
    obtain ⟨-, rfl⟩ := h
    exact ⟨by simp [CommandFrame, modexpEffect], rfl⟩
  case rcEcbEnc =>
    obtain ⟨-, ⟨-, rfl⟩ | ⟨-, -, rfl⟩⟩ := h
    · exact ⟨(CommandFrame.refl _ s).complete 0 0, rfl⟩
    · exact ⟨by simp [CommandFrame, ecbEncEffect], rfl⟩
  case rcEcbDec =>
    obtain ⟨-, ⟨-, rfl⟩ | ⟨-, -, rfl⟩⟩ := h
    · exact ⟨(CommandFrame.refl _ s).complete 0 0, rfl⟩
    · exact ⟨by simp [CommandFrame, ecbDecEffect], rfl⟩
  case rcCfbEnc | rcCfbDec =>
    obtain ⟨-, ⟨-, rfl⟩ | ⟨-, -, rfl⟩⟩ := h
    · exact ⟨(CommandFrame.refl _ s).complete 0 0, rfl⟩
    · exact ⟨((CommandFrame.refl _ s).memWrite _ _).complete _ _, rfl⟩

theorem exec_frame {i : Instr} {s t : State} (h : exec i s = .next t) : CommandFrame i s t := by
  rcases exec_cases h with ⟨f, rfl⟩ | ⟨-, -, f, rfl⟩ | hs
  · exact (faultBase_frame i s).takeFault f
  · exact ((CommandFrame.refl i s).drawRegion _ _).takeFault f
  · exact hs.frame_and_draws.1

/-- Settles O26: a fault's frame is that of the state it completes from, and a success's is read off its
effect. -/
theorem everyCommandKeepsItsFrame : Obligations.EveryCommandKeepsItsFrame := by
  unfold Obligations.EveryCommandKeepsItsFrame
  exact fun i s t h => exec_frame h

/-! ### Completion (40_common.md R144 to R146) -/

/-- Every fault code is from 1 to 13 and its field keeps it, so a report's code is nonzero. -/
theorem CmdFault.report_code_ne_zero (f : CmdFault) : f.report.code ≠ 0#32 := by
  have hnum := f.code.num_range
  intro h
  have hcode := congrArg BitVec.toNat h
  rw [CmdFault.report, codeWord_eq, word_toNat, BitVec.toNat_ofNat] at hcode
  omega

/-- A success completes with ERR as it was and a zero error report (40_common.md R146). -/
theorem Success.outcome {i : Instr} {s t : State} (h : Success i s t) :
    t.phase = .idle ∧ t.status.done = true ∧ t.status.err = s.status.err ∧
      t.err = ErrorReport.zero := by
  obtain ⟨herr, -⟩ := h.status_err_and_crcMatch
  obtain ⟨_, _, u, rfl⟩ := h.exists_eq_complete
  exact ⟨rfl, rfl, herr, rfl⟩

theorem performWord_next (w : Word) (s : State) : ∃ t, performWord w s = .next t := by
  cases hd : decode w with
  | ok i => simpa only [performWord, hd] using exec_next i s
  | error e => exact ⟨takeFault (illegalCommand w) s, by simp only [performWord, hd]⟩

theorem engineTurn_next (s : State) : ∃ t, engineTurn s = .next t := by
  unfold engineTurn
  split
  · exact performWord_next _ s
  · exact ⟨s, rfl⟩

theorem step_next (s : State) : ∃ t, step s = .next t := by
  unfold step
  split
  · exact engineTurn_next s
  next e rest _ =>
    cases e
    case engine => exact engineTurn_next _
    all_goals exact ⟨_, rfl⟩

/-- Settles O5: each outcome of a command completes it, a fault with a nonzero code. -/
theorem everyCommandCompletes : Obligations.EveryCommandCompletes := by
  unfold Obligations.EveryCommandCompletes
  refine ⟨fun i s => ?_, step_next⟩
  obtain ⟨t, h⟩ := exec_next i s
  obtain ⟨hidle, hpend⟩ := exec_completes h
  refine ⟨t, h, hidle, ?_⟩
  rcases exec_cases h with ⟨f, rfl⟩ | ⟨-, -, f, rfl⟩ | hs
  · exact ⟨rfl, rfl, .inr ⟨rfl, f.report_code_ne_zero, rfl⟩⟩
  · exact ⟨rfl, rfl, .inr ⟨rfl, f.report_code_ne_zero, rfl⟩⟩
  · obtain ⟨-, hdone, herr, hreport⟩ := hs.outcome
    exact ⟨hdone, hpend, .inl ⟨herr, hreport⟩⟩

/-! ### The bytes a success writes (20_memory.md R89) -/

/-- A command that faults sets ERR, so one that leaves it 0 is a success. -/
theorem success_of_exec {i : Instr} {s t : State} (h : exec i s = .next t)
    (he : t.status.err = false) : Success i s t := by
  rcases exec_cases h with ⟨f, rfl⟩ | ⟨-, -, f, rfl⟩ | hs
  · cases he
  · cases he
  · exact hs

/-- Settles O30: the outputs of a success are no longer than OUT_LEN and OUT_EXT_LEN. -/
theorem successWritesOnlyItsOutputs : Obligations.SuccessWritesOnlyItsOutputs := by
  unfold Obligations.SuccessWritesOnlyItsOutputs
  intro i s t _ h he x hdst hext
  have hs := success_of_exec h he
  rcases hs.memoryAfter with
    hm | ⟨-, -, main, hm, hmain, -⟩ | ⟨-, -, main, extra, hm, ⟨hmain, -⟩, hextra, -⟩
  · exact readByte_congr hm hs.memDraw x
  · calc t.readByte x = (s.memWrite s.operand.dstAddr.toNat main).readByte x :=
          readByte_congr (s := s.memWrite _ main) hm hs.memDraw x
      _ = s.readByte x := readByte_memWrite_outside _ _ _ _ (by omega)
  · calc t.readByte x = ((s.memWrite s.operand.dstAddr.toNat main).memWrite
            s.operand.extAddr.toNat extra).readByte x :=
          readByte_congr (s := (s.memWrite _ main).memWrite _ extra) hm hs.memDraw x
      _ = (s.memWrite s.operand.dstAddr.toNat main).readByte x :=
          readByte_memWrite_outside _ _ _ _ (by omega)
      _ = s.readByte x := readByte_memWrite_outside _ _ _ _ (by omega)

end Sys2Proof.Machine
end

section
/-! SUPPORT. The invariants of the machine (10_state.md; 20_memory.md; log entries 5 and 6): what the host's
transactions and a whole step keep, said once over any predicate, and from it the obligations about the
memory, the key, STATUS and the resets. -/

namespace Sys2Proof.Machine

/-! ### What a transaction keeps -/

/-- `t` is `s` but for the interrupt's bits, the sticky bits, the schedule and the answers. -/
def HostSideOnly (s t : State) : Prop :=
  t = { s with
    irqEn := t.irqEn, donePend := t.donePend, script := t.script, answers := t.answers
    status := { s.status with busyWrite := t.status.busyWrite, bufBlocked := t.status.bufBlocked } }

/-- A predicate that everything the host can do, but a soft reset, keeps. -/
structure HostKeeps (P : State → Prop) : Prop where
  hostSide : ∀ {s t}, HostSideOnly s t → P s → P t
  accept : ∀ {s} w, s.busy = false → P s → P (accept w s)
  storeReg : ∀ {s} r v, P s → P (storeReg r v s)
  memWrite : ∀ {s a bs}, a + bs.length ≤ s.params.memBytes → P s → P (s.memWrite a bs)

namespace HostKeeps

variable {P : State → Prop} (hP : HostKeeps P) {s : State}
include hP

theorem setScript (h : P s) (script : List Event) : P { s with script := script } := hP.hostSide rfl h

theorem recordAnswer (h : P s) (a : BusAnswer) : P (recordAnswer a s) := hP.hostSide rfl h

theorem writeIrqStatus (h : P s) (v : Word) : P (writeIrqStatus v s) :=
  hP.hostSide (by rw [writeIrqStatus_eq]; rfl) h

theorem writeCtrl {v : Word} (hv : v.getLsbD 1 = false) (h : P s) : P (writeCtrl v s) :=
  hP.hostSide (by rw [writeCtrl_of_not_softReset hv]; rfl) h

/-- A transaction is a soft reset, or it keeps the predicate. -/
theorem transact (h : P s) (tr : Transaction) :
    (∃ v, tr = .write 0x02C 4 v ∧ v / 2 % 2 = 1 ∧ (transact tr s).2 = softReset s) ∨
      P (transact tr s).2 := by
  rcases transact_cases tr s with ht | ⟨-, ht⟩ | ⟨-, a, size, v, hfit, ht⟩ | ⟨off, v, rfl, ht⟩ <;> rw [ht]
  · exact .inr h
  · exact .inr (hP.hostSide rfl h)
  · exact .inr (hP.memWrite (by simpa using hfit) h)
  rcases writeRegOffset_cases off (word v) s with
    ⟨hr, hw⟩ | ⟨-, hw⟩ | ⟨-, hw⟩ | ⟨hb, -, hw⟩ | ⟨-, r, -, hw⟩ | ⟨-, -, hw⟩ <;> rw [hw]
  · obtain rfl : 0x02C = off := Reg.ofOffset_eq_some hr
    cases hbit : (word v).getLsbD 1 with
    | false => exact .inr (hP.writeCtrl hbit h)
    | true =>
      have hv := word_getLsbD v (show 1 < 32 by decide)
      rw [hbit, eq_comm, decide_eq_true_eq] at hv
      exact .inl ⟨v, rfl, hv, writeCtrl_of_softReset hbit s⟩
  · exact .inr (hP.writeIrqStatus h _)
  · exact .inr (hP.hostSide rfl h)
  · exact .inr (hP.accept _ hb h)
  · exact .inr (hP.storeReg r _ h)
  · exact .inr h

theorem hostStep (h : P s) (tr : Transaction) :
    (∃ v, tr = .write 0x02C 4 v ∧ v / 2 % 2 = 1 ∧ (Machine.transact tr s).2 = softReset s) ∨
      P (hostStep tr s) :=
  (hP.transact h tr).imp_right fun h => hP.recordAnswer h _

theorem pollStep (h : P s) : P (pollStep s) := by
  have hread : P (Machine.hostStep statusRead s) :=
    (hP.hostStep h statusRead).resolve_left fun ⟨_, ht, _⟩ => by cases ht
  unfold Machine.pollStep
  split
  · exact hP.setScript hread _
  · exact hread

end HostKeeps

/-- An invariant of the machine: what the host, the engine and the two resets keep. -/
structure StepKeeps (P : State → Prop) : Prop extends HostKeeps P where
  perform : ∀ {w s t}, s.phase = .busy w → P s → performWord w s = .next t → P t
  softReset : ∀ {s}, P s → P (softReset s)
  hardReset : ∀ {s}, P s → P (hardReset s)

/-- One step, by the event it takes. -/
theorem StepKeeps.step {P : State → Prop} (hP : StepKeeps P) {s t : State} (h : P s)
    (hs : step s = .next t) : P t := by
  rcases step_cases hs with ⟨w, base, hp, hw, hbase⟩ | ⟨-, hidle⟩ | ⟨tr, rest, -, rfl⟩ |
    ⟨rest, -, rfl⟩ | ⟨rest, -, rfl⟩
  · rcases hbase with ⟨-, rfl⟩ | ⟨rest, -, rfl⟩
    · exact hP.perform hp h hw
    · exact hP.perform (s := { s with script := rest }) hp (hP.setScript h rest) hw
  · rcases hidle with ⟨-, rfl⟩ | ⟨rest, -, rfl⟩
    · exact h
    · exact hP.setScript h rest
  · refine (hP.hostStep (hP.setScript h rest) tr).elim (fun ⟨v, _, _, ht⟩ => ?_) id
    rw [Machine.hostStep, ht]
    exact hP.recordAnswer (hP.softReset (hP.setScript h rest)) _
  · exact hP.pollStep (hP.setScript h rest)
  · exact hP.hardReset (hP.setScript h rest)

/-! ### The memory (20_memory.md; log entries 5 and 6) -/

namespace State.MemoryOk

variable {s t : State}

theorem congr (h : s.MemoryOk) (hparams : t.params = s.params) (hmem : t.mem = s.mem)
    (hdraw : t.memDraw = s.memDraw) (hdraws : t.draws = s.draws) : t.MemoryOk := by
  unfold State.MemoryOk
  rw [hparams, hmem, hdraw, hdraws]
  exact h

theorem memWrite (h : s.MemoryOk) {a : Nat} {bs : Bytes}
    (hfit : bs.length = 0 ∨ a + bs.length ≤ s.params.memBytes) : (s.memWrite a bs).MemoryOk := by
  obtain ⟨hwf, hbelow, hdraw⟩ := h
  exact ⟨Memory.write_wf hwf a bs, Memory.write_below hbelow (hfit.imp_left List.length_eq_zero_iff.1),
    hdraw⟩

theorem drawRegion (h : s.MemoryOk) (a n : Nat) : (s.drawRegion a n).MemoryOk := by
  obtain ⟨hwf, hbelow, hdraw⟩ := h
  exact ⟨drawRegion_wf hwf a n, drawRegion_below hbelow a n, Nat.lt_succ_of_lt hdraw⟩

end State.MemoryOk

/-- What every draw of a region keeps, an abort keeps. -/
theorem abortMemory_keeps {P : State → Prop} (hP : ∀ s a n, P s → P (s.drawRegion a n)) {s : State}
    (h : P s) : P (abortMemory s) := by
  have hregions (rs : List Region) : ∀ s, P s → P (drawRegions rs s) := by
    induction rs with
    | nil => exact fun _ h => h
    | cons r rs ih => exact fun s h => ih _ (hP s r.addr r.len h)
  unfold abortMemory
  split
  · exact h
  · split
    · exact hregions _ s h
    · exact h

theorem abortMemory_params (s : State) : (abortMemory s).params = s.params :=
  abortMemory_keeps (P := fun t => t.params = s.params) (fun _ _ _ h => h) rfl

/-- A write of DST within DST_LEN lies in the buffer when the command's regions are legal. -/
theorem RegionsLegal.dst_fits {i : Instr} {s : State} (h : RegionsLegal i s)
    (hd : dstRegion s ∈ regions i s) {n : Nat} (hn : n ≤ s.operand.dstLen.toNat) :
    n = 0 ∨ s.operand.dstAddr.toNat + n ≤ s.params.memBytes := by
  have hrange := h.1 _ hd
  simp only [dstRegion] at hrange
  omega

theorem RegionsLegal.ext_fits {i : Instr} {s : State} {b : Bool} (h : RegionsLegal i s)
    (he : extRegion b s ∈ regions i s) {n : Nat} (hn : n ≤ s.operand.extLen.toNat) :
    n = 0 ∨ s.operand.extAddr.toNat + n ≤ s.params.memBytes := by
  have hrange := h.1 _ he
  simp only [extRegion] at hrange
  omega

theorem Success.memoryOk {i : Instr} {s t : State} (h : Success i s t) (hs : s.MemoryOk) :
    t.MemoryOk := by
  obtain ⟨⟨⟨hparams, -⟩, -⟩, hdraws⟩ := h.frame_and_draws
  have hdraw := h.memDraw
  rcases h.memoryAfter with
    hm | ⟨hl, hd, main, hm, -, hmain⟩ | ⟨rfl, hl, main, extra, hm, ⟨-, hmain⟩, -, hextra⟩
  · exact hs.congr hparams hm hdraw hdraws
  · exact (hs.memWrite (hl.dst_fits hd hmain)).congr hparams hm hdraw hdraws
  · have hfirst := hs.memWrite (hl.dst_fits (by simp [regions]) hmain)
    have hsecond := hfirst.memWrite (hl.ext_fits (b := true) (by simp [regions]) hextra)
    exact hsecond.congr hparams hm hdraw hdraws

theorem faultBase_eq_or (i : Instr) (s : State) : faultBase i s = s ∨ faultBase i s = clearKey s := by
  unfold faultBase
  split
  · exact .inr rfl
  · exact .inl rfl

theorem performWord_memoryOk {w : Word} {s t : State} (h : s.MemoryOk)
    (hw : performWord w s = .next t) : t.MemoryOk := by
  rcases performWord_cases hw with ⟨i, -, hx⟩ | ⟨-, rfl⟩
  · rcases exec_cases hx with ⟨f, rfl⟩ | ⟨-, -, f, rfl⟩ | hs
    · rcases faultBase_eq_or i s with hb | hb <;> rw [hb] <;> exact h
    · exact h.drawRegion _ _
    · exact hs.memoryOk h
  · exact h

theorem memoryOk_stepKeeps : StepKeeps State.MemoryOk where
  hostSide ht h := by rw [ht]; exact h
  accept _ _ h := h
  storeReg r v h := by rw [storeReg_frame]; exact h
  memWrite hfit h := h.memWrite (.inr hfit)
  perform _ h hw := performWord_memoryOk h hw
  softReset h := abortMemory_keeps (P := State.MemoryOk) (fun _ a n h => h.drawRegion a n) h
  hardReset _ := ⟨List.Pairwise.nil, by simp [Machine.hardReset], Nat.lt_succ_self _⟩

/-- Settles O21: every write of a command and of the host lies in the buffer, and a draw is fresh. -/
theorem stepKeepsMemoryOk : Obligations.StepKeepsMemoryOk := by
  unfold Obligations.StepKeepsMemoryOk
  exact fun s t h hs => memoryOk_stepKeeps.step h hs

/-! ### The key (10_state.md R29, R31, R66) -/

theorem State.KeyOk.congr {s t : State} (h : s.KeyOk) (hparams : t.params = s.params)
    (hkey : t.key = s.key) (hvalid : t.status.keyValid = s.status.keyValid)
    (hnarrow : t.status.keyNarrow = s.status.keyNarrow) : t.KeyOk := by
  unfold State.KeyOk
  rw [hparams, hkey, hvalid, hnarrow]
  exact h

theorem keyOk_of_no_key {s : State} (hvalid : s.status.keyValid = false)
    (hnarrow : s.status.keyNarrow = false) (hkey : s.key = KeyRegs.zero) : s.KeyOk := by
  simp [State.KeyOk, hvalid, hnarrow, hkey, KeyRegs.zero]

theorem clearKey_keyOk (s : State) : (clearKey s).KeyOk := keyOk_of_no_key rfl rfl rfl

theorem keyPart_lt (s : State) (j : Nat) : s.keyPart j < 256 ^ loadWidth s := by
  simpa [State.keyPart, State.memReadBE] using
    fromBE_lt (s.memRead (s.cipher.keyAddr.toNat + j * loadWidth s) (loadWidth s))

theorem keyNarrowFlag_iff (n b : Nat) : keyNarrowFlag n b = true ↔ n < 256 ^ (b - 1) := by
  rw [keyNarrowFlag, decide_eq_true_iff, Nat.pow_mul]

/-- A width of 9 to KMAX_BITS bits is one of 2 to KMAX_B bytes, as KMAX_BITS is a multiple of 32. -/
theorem loadWidth_legal {s : State} (hp : s.params.Legal) (hlow : 9 ≤ s.cipher.keyBits.toNat)
    (hhigh : s.cipher.keyBits.toNat ≤ s.params.kmaxBits) :
    2 ≤ loadWidth s ∧ loadWidth s ≤ s.params.kmaxBytes := by
  obtain ⟨-, hmul, -⟩ := hp
  unfold loadWidth Params.kmaxBytes
  omega

theorem loadKeyEffect_keyOk {s : State} (hp : s.params.Legal) (hlow : 9 ≤ s.cipher.keyBits.toNat)
    (hhigh : s.cipher.keyBits.toNat ≤ s.params.kmaxBits) (hn : s.keyPart 0 ≠ 0) :
    (loadKeyEffect s).KeyOk :=
  ⟨fun _ => ⟨loadWidth_legal hp hlow hhigh,
    ⟨Nat.pos_of_ne_zero hn, keyPart_lt s 0, keyPart_lt s 1, keyPart_lt s 2⟩, keyNarrowFlag_iff _ _⟩,
    fun hvalid => (by cases hvalid)⟩

theorem Success.keyOk {i : Instr} {s t : State} (h : Success i s t) (hp : s.params.Legal)
    (hs : s.KeyOk) : t.KeyOk := by
  obtain ⟨⟨⟨hparams, -⟩, -, -, -, hkept, -⟩, -⟩ := h.frame_and_draws
  by_cases hload : i = .rcLoadKey
  · subst hload
    obtain ⟨⟨hlow, hhigh⟩, -, hn, rfl⟩ := h
    exact loadKeyEffect_keyOk hp hlow hhigh hn
  by_cases hclear : i = .rcClearKey
  · subst hclear
    obtain rfl : t = complete 0 0 (clearKey s) := h
    exact clearKey_keyOk s
  obtain ⟨hkey, hvalid, hnarrow⟩ := hkept hload hclear
  exact hs.congr hparams hkey hvalid hnarrow

theorem performWord_keyOk {w : Word} {s t : State} (hp : s.params.Legal) (h : s.KeyOk)
    (hw : performWord w s = .next t) : t.KeyOk := by
  rcases performWord_cases hw with ⟨i, -, hx⟩ | ⟨-, rfl⟩
  · rcases exec_cases hx with ⟨f, rfl⟩ | ⟨-, -, f, rfl⟩ | hs
    · rcases faultBase_eq_or i s with hb | hb <;> rw [hb]
      · exact h
      · exact clearKey_keyOk s
    · exact h
    · exact hs.keyOk hp h
  · exact h

theorem performWord_params {w : Word} {s t : State} (hw : performWord w s = .next t) :
    t.params = s.params := by
  rcases performWord_cases hw with ⟨i, -, hx⟩ | ⟨-, rfl⟩
  · obtain ⟨⟨hparams, -⟩, -⟩ := exec_frame hx
    exact hparams
  · rfl

theorem resetRegs_keyOk (s : State) : (resetRegs s).KeyOk := keyOk_of_no_key rfl rfl rfl

theorem keyOk_stepKeeps : StepKeeps fun s => s.params.Legal ∧ s.KeyOk where
  hostSide ht h := by rw [ht]; exact h
  accept _ _ h := h
  storeReg r v h := by rw [storeReg_frame]; exact h
  memWrite _ h := h
  perform _ h hw := ⟨performWord_params hw ▸ h.1, performWord_keyOk h.1 h.2 hw⟩
  softReset {s} h := ⟨abortMemory_params s ▸ h.1, resetRegs_keyOk (abortMemory s)⟩
  hardReset {s} h := ⟨h.1, resetRegs_keyOk s⟩

/-- Settles O22: RC_LOAD_KEY loads a legal key, and everything else keeps the key or clears it. -/
theorem stepKeepsKeyOk : Obligations.StepKeepsKeyOk := by
  unfold Obligations.StepKeepsKeyOk
  exact fun s t hp h hs => (keyOk_stepKeeps.step ⟨hp, h⟩ hs).2

/-! ### STATUS and the error report (10_state.md R27, R28, R32, R33, R36, R56) -/

theorem flagBit_toNat_lt {k : Nat} (hk : k < 8) (b : Bool) : (flagBit k b).toNat < 2 ^ 8 := by
  refine Nat.lt_pow_two_of_testBit _ fun j hj => ?_
  rw [BitVec.testBit_toNat, flagBit_getLsbD, decide_eq_false (show j ≠ k by omega), Bool.and_false,
    Bool.false_and]

theorem docFlags_toNat_lt (types : List Bytes) (lens : List Nat) (bad : Nat) :
    (docFlags types lens bad).toNat < 2 ^ 8 := by
  simp only [docFlags, BitVec.toNat_or]
  iterate 7 refine Nat.or_lt_two_pow ?_ (flagBit_toNat_lt (by decide) _)
  exact flagBit_toNat_lt (by decide) _

/-- CODE and SUB fill the low 16 bits (10_state.md R36). -/
theorem CmdFault.report_code_lt {f : CmdFault} (hsub : f.sub < 256) : f.report.code.toNat < 2 ^ 16 := by
  have hnum := f.code.num_range
  rw [CmdFault.report, codeWord_eq, word_toNat]
  omega

/-- A fault completes into agreement, from a state with the result flags that acceptance left. -/
theorem takeFault_statusOk {f : CmdFault} {s : State} (hsub : f.sub < 256)
    (hblock : s.status.blockGeN = false) (hdrop : s.status.dropNz = false)
    (hdoc : s.framer.docFlags.toNat < 2 ^ 8) : (takeFault f s).StatusOk :=
  ⟨fun _ hp => (by cases hp), fun _ => ⟨fun _ => f.report_code_ne_zero, fun _ => rfl⟩,
    fun _ => ⟨rfl, hblock, hdrop⟩, f.report_code_lt hsub, hdoc⟩

theorem Success.docFlags_lt {i : Instr} {s t : State} (h : Success i s t)
    (hdoc : s.framer.docFlags.toNat < 2 ^ 8) : t.framer.docFlags.toNat < 2 ^ 8 := by
  by_cases hi : i = .frParseDoc
  · subst hi
    obtain ⟨-, -, ks, -, -, rfl⟩ := h
    exact docFlags_toNat_lt _ _ _
  · obtain ⟨⟨-, -, -, hkept, -⟩, -⟩ := h.frame_and_draws
    obtain ⟨-, -, -, hflags, -⟩ := hkept hi
    rwa [hflags]

theorem Success.statusOk {i : Instr} {s t : State} (h : Success i s t) (he : s.status.err = false)
    (hdoc : s.framer.docFlags.toNat < 2 ^ 8) : t.StatusOk := by
  obtain ⟨hidle, -, herr, hreport⟩ := h.outcome
  rw [he] at herr
  refine ⟨fun w hp => ?_, fun _ => ?_, fun ht => ?_, ?_, h.docFlags_lt hdoc⟩
  · rw [hidle] at hp
    cases hp
  · simp [herr, hreport, ErrorReport.zero]
  · simp [herr] at ht
  · simp [hreport, ErrorReport.zero]

theorem performWord_statusOk {w : Word} {s t : State} (hp : s.phase = .busy w) (h : s.StatusOk)
    (hw : performWord w s = .next t) : t.StatusOk := by
  obtain ⟨hbusy, -, -, -, hdoc⟩ := h
  obtain ⟨-, -, herr, hblock, hdrop⟩ := hbusy w hp
  rcases performWord_cases hw with ⟨i, -, hx⟩ | ⟨-, rfl⟩
  · rcases exec_fault_or_success hx with ⟨f, hsub, rfl⟩ | ⟨-, f, ⟨-, hsub⟩, rfl⟩ | hkept
    · rcases faultBase_eq_or i s with hb | hb <;> rw [hb] <;>
        exact takeFault_statusOk hsub hblock hdrop hdoc
    · exact takeFault_statusOk (s := s.drawRegion _ _) hsub hblock hdrop hdoc
    · exact (success_of_exec hx (hkept.trans herr)).statusOk herr hdoc
  · exact takeFault_statusOk (Nat.zero_lt_succ _) hblock hdrop hdoc

theorem resetRegs_statusOk (s : State) : (resetRegs s).StatusOk :=
  ⟨fun _ hp => (by cases hp), fun _ => by simp [resetRegs, State.resetOf, StatusBits.zero, ErrorReport.zero],
    fun h => (by cases h), show (0#32).toNat < 2 ^ 16 by decide, show (0#32).toNat < 2 ^ 8 by decide⟩

@[simp] theorem storeReg_docFlags (r : Reg) (v : Word) (s : State) :
    (storeReg r v s).framer.docFlags = s.framer.docFlags := by
  cases r <;> rfl

/-- Acceptance clears the flags of the last result, and the report waits for the completion. -/
theorem accept_statusOk {s : State} (w : Word) (h : s.StatusOk) : (accept w s).StatusOk := by
  obtain ⟨-, -, -, hcode, hdoc⟩ := h
  exact ⟨fun v hp => ⟨Phase.busy.inj hp, rfl, rfl, rfl, rfl⟩, fun hp => (by cases hp),
    fun he => (by cases he), hcode, hdoc⟩

theorem statusOk_stepKeeps : StepKeeps State.StatusOk where
  hostSide ht h := by rw [ht]; exact h
  accept w _ h := accept_statusOk w h
  storeReg {s} r v h := by
    have hdoc := storeReg_docFlags r v s
    rw [storeReg_frame] at hdoc ⊢
    unfold State.StatusOk at h ⊢
    rwa [hdoc]
  memWrite _ h := h
  perform hp h hw := performWord_statusOk hp h hw
  softReset {s} _ := resetRegs_statusOk (abortMemory s)
  hardReset {s} _ := resetRegs_statusOk s

/-- Settles O23: acceptance clears the result flags, and each outcome of a command sets ERR with its
report. -/
theorem stepKeepsStatusOk : Obligations.StepKeepsStatusOk := by
  unfold Obligations.StepKeepsStatusOk
  exact fun s t h hs => statusOk_stepKeeps.step h hs

end Sys2Proof.Machine
end

section
/-! SUPPORT. The schedule and the resets (30_encoding.md R113, R117, R119; 40_common.md R140; 10_state.md R66,
R72): what a turn of the engine runs, how a WAIT ends, where the key changes, and what a reset leaves. -/

namespace Sys2Proof.Machine

/-! ### The engine's turn (40_common.md R140, R145) -/

/-- Settles O1: each of the words is the encoding of its command. -/
theorem tableWordsDecode : Obligations.TableWordsDecode := by
  unfold Obligations.TableWordsDecode
  exact ⟨decode_encode .nop, decode_encode .frReadChunk, decode_encode .frParseDoc,
    decode_encode .frWriteChunkStored, decode_encode .frWriteChunkRecomp,
    decode_encode .frWriteChunkPlace, decode_encode .frCrcChunk, decode_encode .frWriteSig,
    decode_encode .sfDefilter, decode_encode .sfRefilterNone, decode_encode .rcLoadKey,
    decode_encode .rcEcbEnc, decode_encode .rcEcbDec, decode_encode .rcCfbEnc,
    decode_encode .rcCfbDec, decode_encode .rcModexpE, decode_encode .rcModexpD,
    decode_encode .rcClearKey⟩

/-- With an empty schedule the engine has its turn (40_common.md R144; log entry 2). -/
theorem step_of_empty_busy {s : State} {w : Word} (hp : s.phase = .busy w) (hs : s.script = []) :
    step s = performWord w s := by
  simp only [step, hs, engineTurn, hp]

/-- Settles O4: the engine's turn performs the word in progress, and a placed word is in progress. -/
theorem stepRunsTheDecodedCommand : Obligations.StepRunsTheDecodedCommand := by
  unfold Obligations.StepRunsTheDecodedCommand
  refine ⟨fun s w i hp hd => ⟨fun hs => ?_, fun rest hs => ?_⟩, fun s w i hw hd => ?_⟩
  · rw [step_of_empty_busy hp hs, performWord_of_decode hd]
  · rw [step_engine_busy hp hs, performWord_of_decode hd]
  · have hphase : (s.withFetchWord 32 w).phase = .busy (BitVec.ofNat 32 w) := by
      simp only [State.withFetchWord, accept_phase, Nat.mod_eq_of_lt hw]
    rw [step_engine_busy hphase rfl, performWord_of_decode hd]
    simp only [State.withFetchWord, accept, Nat.mod_eq_of_lt hw]

/-! ### WAIT (30_encoding.md R119) -/

theorem performWord_script {w : Word} {s t : State} (hw : performWord w s = .next t) :
    t.script = s.script := by
  rcases performWord_cases hw with ⟨i, -, hx⟩ | ⟨-, rfl⟩
  · obtain ⟨⟨-, -, -, -, -, -, hscript, -⟩, -⟩ := exec_frame hx
    exact hscript
  · rfl

/-- A poll reads STATUS, which leaves its answer alone (20_memory.md R95). -/
theorem hostStep_statusRead (s : State) :
    hostStep statusRead s = recordAnswer (.value (readRegOffset 0x014 s).toNat) s := by
  rw [hostStep, statusRead, transact_reg_read s (by decide) (by decide)]

theorem run_succ {n : Nat} {s s' : State} (h : step s = .next s') :
    Sys2Proof.core.run (n + 1) s = Sys2Proof.core.run n s' := by
  simp only [Host.Core.run, Sys2Proof.core, h]

theorem pollStep_of_idle {s : State} (hp : s.phase = .idle) :
    pollStep s = recordAnswer (.value (readRegOffset 0x014 s).toNat) s := by
  simp only [pollStep, (busy_eq_false_iff s).2 hp, Bool.false_eq_true, if_false, hostStep_statusRead]

/-- A poll that sees BUSY hands the next turn to the engine (log entry 3). -/
theorem pollStep_of_busy {s : State} {w : Word} (hp : s.phase = .busy w) :
    pollStep s = { recordAnswer (.value (readRegOffset 0x014 s).toNat) s with
      script := .engine :: .wait :: s.script } := by
  have hb : s.busy = true := (busy_eq_true_iff s).2 (by simp [hp])
  simp only [pollStep, hb, if_true, hostStep_statusRead, recordAnswer_script]

theorem step_wait {s : State} {rest : List Event} (hs : s.script = .wait :: rest) :
    step s = .next (pollStep { s with script := rest }) := by
  simp only [step, hs, runEvent]

theorem step_wait_of_idle {s : State} {rest : List Event} (hp : s.phase = .idle)
    (hs : s.script = .wait :: rest) :
    ∃ t, step s = .next t ∧ t.phase = .idle ∧ t.script = rest := by
  refine ⟨_, step_wait hs, ?_⟩
  rw [pollStep_of_idle (s := { s with script := rest }) hp]
  exact ⟨hp, rfl⟩

theorem step_wait_of_busy {s : State} {w : Word} {rest : List Event} (hp : s.phase = .busy w)
    (hs : s.script = .wait :: rest) :
    ∃ t, step s = .next t ∧ t.phase = .busy w ∧ t.script = .engine :: .wait :: rest := by
  refine ⟨_, step_wait hs, ?_⟩
  rw [pollStep_of_busy (s := { s with script := rest }) hp]
  exact ⟨hp, rfl⟩

/-- Settles O16: Idle, the first poll ends the WAIT; Busy, the engine completes the command after it, and
the second poll does. -/
theorem waitTerminates : Obligations.WaitTerminates := by
  unfold Obligations.WaitTerminates
  intro s rest hs
  cases hp : s.phase with
  | idle =>
    obtain ⟨t, hstep, hidle, hscript⟩ := step_wait_of_idle hp hs
    exact ⟨1, t, by decide, run_succ hstep, hidle, hscript⟩
  | busy w =>
    obtain ⟨s₁, hpoll, hbusy, hturn⟩ := step_wait_of_busy hp hs
    obtain ⟨s₂, hperform⟩ := performWord_next w { s₁ with script := .wait :: rest }
    have hengine : step s₁ = .next s₂ := (step_engine_busy hbusy hturn).trans hperform
    obtain ⟨hidle₂, -⟩ := performWord_completes hperform
    obtain ⟨t, hlast, hidle, hscript⟩ := step_wait_of_idle hidle₂ (performWord_script hperform)
    exact ⟨3, t, Nat.le_refl 3, by rw [run_succ hpoll, run_succ hengine, run_succ hlast]; rfl, hidle,
      hscript⟩

/-! ### Where the key changes (10_state.md R29, R66) -/

/-- The key registers and their two flags are those of `s`. -/
def SameKey (s t : State) : Prop :=
  t.key = s.key ∧ t.status.keyValid = s.status.keyValid ∧ t.status.keyNarrow = s.status.keyNarrow

theorem sameKey_hostKeeps (s : State) : HostKeeps (SameKey s) where
  hostSide ht h := by rw [ht]; exact h
  accept _ _ h := h
  storeReg r v h := by rw [storeReg_frame]; exact h
  memWrite _ h := h

/-- A word other than those of RC_LOAD_KEY and RC_CLEAR_KEY leaves the key. -/
theorem performWord_key {w : Word} {s t : State} (hw : performWord w s = .next t) :
    (decode w = .ok .rcLoadKey ∨ decode w = .ok .rcClearKey) ∨ SameKey s t := by
  rcases performWord_cases hw with ⟨i, hd, hx⟩ | ⟨-, rfl⟩
  · by_cases hi : i = .rcLoadKey ∨ i = .rcClearKey
    · rcases hi with rfl | rfl
      exacts [.inl (.inl hd), .inl (.inr hd)]
    · obtain ⟨hload, hclear⟩ := not_or.1 hi
      obtain ⟨-, -, -, -, hkept, -⟩ := exec_frame hx
      exact .inr (hkept hload hclear)
  · exact .inr ⟨rfl, rfl, rfl⟩

/-- Settles O24: an event that is none of the three leaves the key as it is. -/
theorem keyChangesOnlyByKeyCommands : Obligations.KeyChangesOnlyByKeyCommands := by
  unfold Obligations.KeyChangesOnlyByKeyCommands
  intro s t h hchange
  have hdiff : ¬ SameKey s t := fun ⟨hkey, hvalid, hnarrow⟩ => by
    rcases hchange with hc | hc | hc
    exacts [hc hkey, hc hvalid, hc hnarrow]
  have hsame (rest : List Event) : SameKey s { s with script := rest } := ⟨rfl, rfl, rfl⟩
  rcases step_cases h with ⟨w, base, hp, hw, hbase⟩ | ⟨-, hidle⟩ | ⟨tr, rest, hs, rfl⟩ |
    ⟨rest, -, rfl⟩ | ⟨rest, hs, -⟩
  · refine .inl ⟨w, hp, ?_, hbase.imp And.left fun ⟨rest, hs, _⟩ => ⟨rest, hs⟩⟩
    refine (performWord_key hw).resolve_right fun hkey => hdiff ?_
    rcases hbase with ⟨-, rfl⟩ | ⟨rest, -, rfl⟩ <;> exact hkey
  · rcases hidle with ⟨-, rfl⟩ | ⟨rest, -, rfl⟩ <;> exact absurd ⟨rfl, rfl, rfl⟩ hdiff
  · obtain ⟨v, rfl, hv, -⟩ :=
      ((sameKey_hostKeeps s).hostStep (hsame rest) tr).resolve_right hdiff
    exact .inr (.inl ⟨v, rest, hs, hv⟩)
  · exact absurd ((sameKey_hostKeeps s).pollStep (hsame rest)) hdiff
  · exact .inr (.inr ⟨rest, hs⟩)

/-! ### Resets (10_state.md R72; 00_scope.md R5, R6) -/

/-- The two open parameters are legal for every choice behind them (log entry 7). -/
theorem params_legal_of_choices {p : Params} (m k : Nat)
    (hmem : p.memBytes = 4 * (m % 4193281) + 4096) (hkey : p.kmaxBits = 32 * (k % 481) + 1024) :
    p.Legal := by
  unfold Params.Legal
  omega

theorem reset_params_legal : State.reset.params.Legal :=
  params_legal_of_choices Config.memSizeChoice Config.keySizeChoice rfl rfl

/-- Settles O20: the reset state is its own reset, and its memory is empty. -/
theorem resetMeetsInvariant : Obligations.ResetMeetsInvariant := by
  unfold Obligations.ResetMeetsInvariant
  exact ⟨reset_params_legal, ⟨reset_mem_wf, by simp [State.reset, State.resetOf], Nat.zero_lt_one⟩,
    resetRegs_keyOk State.reset, resetRegs_statusOk State.reset⟩

/-- Settles O17: each reset sets the registers, whatever it does to the memory. -/
theorem everyResetLeavesResetValues : Obligations.EveryResetLeavesResetValues := by
  unfold Obligations.EveryResetLeavesResetValues
  refine ⟨⟨resetRegs_atResetValues State.reset, reset_params_legal⟩, fun s rest hs => ?_,
    fun s v rest hv hs => ?_⟩
  · exact ⟨_, step_hardReset hs, hardReset_atResetValues _, rfl⟩
  · exact ⟨_, step_write_softReset hv hs, (softReset_atResetValues _).recordAnswer .ok,
      abortMemory_params { s with script := rest }⟩

end Sys2Proof.Machine
end

section
/-! SUPPORT. What the host reads (10_state.md R20 to R66; 20_memory.md R95; 60_exceptions.md R331): that a
read leaves the device alone, the bits of STATUS, the register map, and that no answer shows the key. -/

namespace Sys2Proof.Machine

/-! ### A read leaves the device alone (20_memory.md R84, R95) -/

theorem transact_read_state (off size : Nat) (s : State) :
    (transact (.read off size) s).2 = s ∨
      (s.busy = true ∧ (transact (.read off size) s).2 = setBufBlocked s) := by
  cases hz : sizeLegal size with
  | false => simp [transact, hz]
  | true =>
    cases ha : areaOf s.params off size with
    | regBlock o => simp [transact, hz, ha, apply_ite Prod.snd]
    | buffer a => cases hb : s.busy <;> simp [transact, hz, ha, hb, apply_ite Prod.snd]
    | outside => simp [transact, hz, ha]

/-- Settles O9: a read keeps the state, or, of the buffer while Busy, sets BUF_BLOCKED. -/
theorem hostReadsChangeNothing : Obligations.HostReadsChangeNothing := by
  unfold Obligations.HostReadsChangeNothing
  intro s t off size rest hs h
  obtain rfl : hostStep (.read off size) { s with script := rest } = t :=
    Host.Outcome.next.inj ((step_bus hs).symm.trans h)
  rw [hostStep]
  rcases transact_read_state off size { s with script := rest } with hr | ⟨hb, hr⟩ <;> rw [hr]
  · exact ⟨rfl, fun _ => rfl, id⟩
  · exact ⟨rfl, fun hp => absurd hp ((busy_eq_true_iff _).1 hb), fun _ => rfl⟩

/-! ### The key is not read (10_state.md R66) -/

/-- `s` with other key numbers of the same width. -/
def State.withKeyNumbers (s : State) (kn ke kd : Nat) : State :=
  { s with key := { s.key with kn := kn, ke := ke, kd := kd } }

/-- KEY_B and KEY_U depend on the width alone, and no other register on the key (10_state.md R64). -/
theorem readReg_withKeyNumbers (r : Reg) (s : State) (kn ke kd : Nat) :
    readReg r (s.withKeyNumbers kn ke kd) = readReg r s := by
  cases r <;> rfl

theorem readRegOffset_withKeyNumbers (off : Nat) (s : State) (kn ke kd : Nat) :
    readRegOffset off (s.withKeyNumbers kn ke kd) = readRegOffset off s := by
  simp only [readRegOffset, readReg_withKeyNumbers]

/-- Settles O25: an answer is a bus error, an acknowledgement, a register's value or bytes of the buffer. -/
theorem hostCannotReadTheKey : Obligations.HostCannotReadTheKey := by
  unfold Obligations.HostCannotReadTheKey
  intro s t kn ke kd
  have hparams : (s.withKeyNumbers kn ke kd).params = s.params := rfl
  have hbusy : (s.withKeyNumbers kn ke kd).busy = s.busy := rfl
  have hmem (a n : Nat) : (s.withKeyNumbers kn ke kd).memRead a n = s.memRead a n := rfl
  change (transact t (s.withKeyNumbers kn ke kd)).1 = (transact t s).1
  cases t with
  | read off size =>
    cases hz : sizeLegal size with
    | false => simp [transact, hz]
    | true =>
      cases ha : areaOf s.params off size with
      | regBlock o => simp [transact, hparams, hz, ha, apply_ite Prod.fst, readRegOffset_withKeyNumbers]
      | buffer a => simp [transact, hparams, hbusy, hmem, hz, ha, apply_ite Prod.fst]
      | outside => simp [transact, hparams, hz, ha]
  | write off size v =>
    cases hz : sizeLegal size with
    | false => simp [transact, hz]
    | true =>
      cases ha : areaOf s.params off size with
      | regBlock o => simp [transact, hparams, hz, ha, apply_ite Prod.fst]
      | buffer a => simp [transact, hparams, hbusy, hz, ha, apply_ite Prod.fst]
      | outside => simp [transact, hparams, hz, ha]

/-! ### STATUS (10_state.md R25, R26) -/

theorem statusWord_getLsbD (s : State) (k : Nat) :
    s.statusWord.getLsbD k = (decide (k < 32) &&
      ((decide (k = 0) && s.busy) || (decide (k = 1) && s.status.done) ||
        (decide (k = 2) && s.status.err) || (decide (k = 3) && s.status.keyValid) ||
        (decide (k = 4) && s.status.crcMatch) || (decide (k = 5) && s.status.keyNarrow) ||
        (decide (k = 6) && s.status.blockGeN) || (decide (k = 7) && s.status.dropNz) ||
        (decide (k = 8) && s.status.busyWrite) || (decide (k = 9) && s.status.bufBlocked))) := by
  simp only [State.statusWord, BitVec.getLsbD_or, flagBit_getLsbD, Bool.and_assoc,
    ← Bool.and_or_distrib_left]

/-- Settles O15: each bit of the word is the flag at its place. -/
theorem statusWordLayout : Obligations.StatusWordLayout := by
  unfold Obligations.StatusWordLayout
  intro s
  have hbusy : s.busy = true ↔ ∃ w, s.phase = .busy w := by
    rw [busy_eq_true_iff]
    cases s.phase <;> simp
  simp only [readReg, statusWord_getLsbD]
  refine ⟨by simpa using hbusy, by simp, by simp, by simp, by simp, by simp, by simp, by simp, by simp,
    by simp, fun k hk => ?_⟩
  have hne (j : Nat) (hj : j < 10) : decide (k = j) = false := decide_eq_false (by omega)
  simp [hne]

/-- A flag above the bits of a word adds its place's value. -/
theorem or_flagBit_toNat {w : Word} {k : Nat} (hk : k < 32) (hw : w.toNat < 2 ^ k) (b : Bool) :
    (w ||| flagBit k b).toNat = w.toNat + 2 ^ k * b.toNat ∧
      (w ||| flagBit k b).toNat < 2 ^ (k + 1) := by
  have hflag : (flagBit k b).toNat = b.toNat <<< k := by
    have hpow : 2 ^ k < 2 ^ 32 := Nat.pow_lt_pow_right (by decide) hk
    cases b
    · simp
    · rw [flagBit, BitVec.toNat_shiftLeft]
      simpa [Nat.shiftLeft_eq] using hpow
  have hsum : (w ||| flagBit k b).toNat = w.toNat + 2 ^ k * b.toNat := by
    rw [BitVec.toNat_or, hflag, Nat.lor_comm, ← Nat.shiftLeft_add_eq_or_of_lt hw, Nat.shiftLeft_eq]
    ring
  refine ⟨hsum, ?_⟩
  rw [hsum, Nat.pow_succ]
  cases b <;> simp <;> omega

theorem flagBit_zero_toNat (b : Bool) : (flagBit 0 b).toNat = b.toNat := by
  cases b <;> rfl

/-- The value of STATUS is the sum of its flags' places. -/
theorem statusWord_toNat (s : State) : s.statusWord.toNat = statusValue s := by
  have hbusy : (if s.phase = .idle then 0 else 1) = s.busy.toNat := by
    unfold State.busy
    cases s.phase <;> rfl
  have hzero : (flagBit 0 s.busy).toNat < 2 ^ 1 := by
    rw [flagBit_zero_toNat]
    exact s.busy.toNat_lt
  obtain ⟨h1, hlt1⟩ := or_flagBit_toNat (k := 1) (by decide) hzero s.status.done
  obtain ⟨h2, hlt2⟩ := or_flagBit_toNat (k := 2) (by decide) hlt1 s.status.err
  obtain ⟨h3, hlt3⟩ := or_flagBit_toNat (k := 3) (by decide) hlt2 s.status.keyValid
  obtain ⟨h4, hlt4⟩ := or_flagBit_toNat (k := 4) (by decide) hlt3 s.status.crcMatch
  obtain ⟨h5, hlt5⟩ := or_flagBit_toNat (k := 5) (by decide) hlt4 s.status.keyNarrow
  obtain ⟨h6, hlt6⟩ := or_flagBit_toNat (k := 6) (by decide) hlt5 s.status.blockGeN
  obtain ⟨h7, hlt7⟩ := or_flagBit_toNat (k := 7) (by decide) hlt6 s.status.dropNz
  obtain ⟨h8, hlt8⟩ := or_flagBit_toNat (k := 8) (by decide) hlt7 s.status.busyWrite
  obtain ⟨h9, -⟩ := or_flagBit_toNat (k := 9) (by decide) hlt8 s.status.bufBlocked
  unfold State.statusWord statusValue
  rw [hbusy, h9, h8, h7, h6, h5, h4, h3, h2, h1, flagBit_zero_toNat]
  norm_num

/-! ### The register map (10_state.md R20 to R64) -/

/-- The map written out is the model's: each register at its offset with what it reads. -/
theorem registerMap_eq (s : State) :
    registerMap s = Reg.all.map fun r => (r.offset, (readReg r s).toNat) := by
  have hkey : (word (s.params.kmaxBits % 2 ^ 16)).toNat = s.params.kmaxBits % 2 ^ 16 :=
    word_toNat_of_lt _ (by omega)
  simp only [Reg.all, List.map_append, List.map_cons, List.map_nil, Reg.offset, readReg, hkey,
    statusWord_toNat, State.ctrlWord, State.irqStatusWord, flagBit_zero_toNat, word_toNat]
  rfl

/-- The RW registers are the rows of the map that a write stores to. -/
theorem writableMap_eq (s : State) (v : Word) :
    writableMap s v = (Reg.all.filter Reg.isRW).map fun r => (r.offset, storeReg r v s) := rfl

theorem Reg.mem_all (r : Reg) : r ∈ Reg.all := by
  cases r <;> decide

/-- A store commutes with taking the event off the schedule and recording its answer. -/
theorem storeReg_hostSide (r : Reg) (v : Word) (s : State) (script : List Event) (a : BusAnswer) :
    recordAnswer a (storeReg r v { s with script := script }) =
      { storeReg r v s with script := script, answers := a :: s.answers } := by
  cases r <;> rfl

/-- Settles O60: by O12's clauses for reads, and for a write by what an RW register stores. -/
theorem registerMap_isServed : Obligations.RegisterMap := by
  unfold Obligations.RegisterMap
  intro s rest
  obtain ⟨-, -, hread, hreserved, -⟩ := registerAccess s rest
  rw [registerMap_eq]
  refine ⟨fun p hp hs => ?_, fun off hal hlt hres hs => ?_, fun v hp p hmem hs => ?_⟩
  · obtain ⟨r, -, rfl⟩ := List.mem_map.1 hp
    exact hread r hs
  · exact hreserved off hal hlt (fun r => hres _ (List.mem_map_of_mem r.mem_all)) hs
  · rw [writableMap_eq] at hmem
    obtain ⟨r, hr, rfl⟩ := List.mem_map.1 hmem
    obtain ⟨-, hrw⟩ := List.mem_filter.1 hr
    obtain ⟨hal, hlt⟩ := r.offset_aligned
    have hb : ({ s with script := rest } : State).busy = false := (busy_eq_false_iff _).2 hp
    rw [step_write_reg hal hlt hs, writeRegOffset_rw hrw hb, storeReg_hostSide]
    rfl

end Sys2Proof.Machine
end

section
/-! SUPPORT. Reconstruction (42_filter.md R220 to R229, R232): what SF_DEFILTER stores, row by row and byte by
byte, that it inverts refiltering with type None, and the Paeth predictor. -/

namespace Sys2Proof.Machine

/-! ### The Paeth predictor (42_filter.md R228) -/

/-- Settles O50: the two comparisons pick the candidate, and it is at least as near as the others. -/
theorem paethPicksTheNearest : Obligations.PaethPicksTheNearest := by
  unfold Obligations.PaethPicksTheNearest
  rintro a b c dist rfl
  have ha : _ → paethPredictor a b c = a := fun h => if_pos h
  have hb : _ → _ → paethPredictor a b c = b := fun h hbc => (if_neg h).trans (if_pos hbc)
  have hc : _ → _ → paethPredictor a b c = c := fun h hbc => (if_neg h).trans (if_neg hbc)
  refine ⟨ha, hb, hc, fun v hv => ?_⟩
  simp only at ha hb hc ⊢
  by_cases hfirst : ((a : Int) + b - c - a).natAbs ≤ ((a : Int) + b - c - b).natAbs ∧
      ((a : Int) + b - c - a).natAbs ≤ ((a : Int) + b - c - c).natAbs
  · rw [ha hfirst]
    rcases hv with rfl | rfl | rfl
    exacts [Nat.le_refl _, hfirst.1, hfirst.2]
  by_cases hsecond : ((a : Int) + b - c - b).natAbs ≤ ((a : Int) + b - c - c).natAbs
  · rw [hb hfirst hsecond]
    rcases hv with rfl | rfl | rfl <;> omega
  · rw [hc hfirst hsecond]
    rcases hv with rfl | rfl | rfl <;> omega

/-- The predictor of each of the five filter types (42_filter.md R224 to R228). -/
theorem predictor_of_le {f : Nat} (hf : f ≤ 4) (a b c : Nat) :
    predictor f a b c = if f = 0 then 0 else if f = 1 then a else if f = 2 then b
      else if f = 3 then (a + b) / 2 else paethPredictor a b c := by
  interval_cases f <;> rfl

/-! ### One row (42_filter.md R222, R223) -/

/-- What is reconstructed of a row stays. -/
theorem getD_reconRow_done (type bpp : Nat) (above done row : Bytes) {i : Nat} (hi : i < done.length) :
    (reconRow type bpp above done row).getD i 0#8 = done.getD i 0#8 := by
  induction row generalizing done with
  | nil => rfl
  | cons filt row ih =>
    rw [reconRow, ih _ (by simp; omega), List.getD_append _ _ _ _ hi]

/-- So the byte to the left of the next one is in place before it. -/
theorem leftByte_reconRow_done {bpp : Nat} (hbpp : 1 ≤ bpp) (type : Nat) (above done more row : Bytes) :
    leftByte bpp (reconRow type bpp above (done ++ more) row) done.length =
      leftByte bpp done done.length := by
  unfold leftByte
  split_ifs with hle
  · have hlt : done.length - bpp < done.length := by omega
    rw [getD_reconRow_done _ _ _ _ _ (by rw [List.length_append]; omega), List.getD_append _ _ _ _ hlt]
  · rfl

/-- A byte of a row, from its filtered byte and the neighbours in the finished row and the row above. -/
theorem getD_reconRow {bpp : Nat} (hbpp : 1 ≤ bpp) (type : Nat) (above done row : Bytes) {k x : Nat}
    (hk : k < row.length) (hx : x = done.length + k) :
    (reconRow type bpp above done row).getD x 0#8 =
      reconByte type (row.getD k 0#8) (leftByte bpp (reconRow type bpp above done row) x)
        (above.getD x 0#8) (leftByte bpp above x) := by
  induction row generalizing done k with
  | nil => cases hk
  | cons filt row ih =>
    rw [reconRow]
    cases k with
    | zero =>
      obtain rfl : x = done.length := hx
      rw [leftByte_reconRow_done hbpp, getD_reconRow_done _ _ _ _ _ (by simp)]
      simp
    | succ k => exact ih _ (by simpa using hk) (by simp; omega)

/-! ### The rows of an image (42_filter.md R229) -/

/-- The row above row `y`: the one given, above the first row, and then the reconstructed ones. -/
def rowAbove (r : Nat) (above out : Bytes) : Nat → Bytes
  | 0 => above
  | y + 1 => blockOf r y out

/-- Row `y` of the output is reconstructed from line `y` of the stream and the row above. -/
theorem blockOf_defilterRows {bpp r n y : Nat} {above stream : Bytes} (h : stream.length = n * (r + 1))
    (hy : y < n) :
    blockOf r y (defilterRows bpp r n above stream) =
      reconRow ((blockOf (r + 1) y stream).getD 0 0#8).toNat bpp
        (rowAbove r above (defilterRows bpp r n above stream) y) []
        ((blockOf (r + 1) y stream).drop 1) := by
  induction n generalizing above stream y with
  | zero => omega
  | succ n ih =>
    rw [Nat.succ_mul] at h
    have hrow : ((stream.drop 1).take r).length = r := by
      rw [List.length_take, List.length_drop]
      omega
    rw [defilterRows]
    generalize hfirst : reconRow (stream.headD 0#8).toNat bpp above [] ((stream.drop 1).take r) = row
    have hwidth : row.length = r := by
      rw [← hfirst, reconRow_length, hrow, List.length_nil, Nat.zero_add]
    have htake (rest : Bytes) : (row ++ rest).take r = row := List.take_left' hwidth
    have hdrop (rest : Bytes) : (row ++ rest).drop r = rest := List.drop_left' hwidth
    cases y with
    | zero =>
      rw [blockOf_zero, htake, blockOf_zero, List.drop_take, Nat.add_sub_cancel]
      simp only [rowAbove]
      rw [← hfirst]
      cases stream <;> simp
    | succ y =>
      rw [blockOf_succ, hdrop, blockOf_succ, ih (by rw [List.length_drop]; omega) (by omega)]
      congr 1
      cases y with
      | zero => simp only [rowAbove, blockOf_zero, htake]
      | succ y => simp only [rowAbove, blockOf_succ, hdrop]

/-! ### SF_DEFILTER (42_filter.md R229, R230) -/

theorem filterTypeFault_eq_none_iff (s : State) :
    filterTypeFault s = none ↔
      ∀ y, y < s.rows → (s.readByte (s.operand.srcAddr.toNat + y * s.stride)).toNat ≤ 4 := by
  simp [filterTypeFault]

/-- SF_DEFILTER, all its checks passed, stores the reconstructed rows at DST. -/
theorem exec_sfDefilter_of_fits {s : State} (hbpp : EarlyChecksPass .sfDefilter s)
    (hl : RegionsLegal .sfDefilter s) (hlen : s.operand.srcLen.toNat = s.filteredLen)
    (hfit : s.rawLen ≤ s.operand.dstLen.toNat)
    (htypes : ∀ y, y < s.rows → (s.readByte (s.operand.srcAddr.toNat + y * s.stride)).toNat ≤ 4) :
    exec .sfDefilter s = .next (complete s.rawLen 0 (s.memWrite s.operand.dstAddr.toNat
      (defilterRows s.filter.bpp.toNat s.rowBytes s.rows [] s.srcBytes))) := by
  rw [exec_sfDefilter]
  refine runChecked_next.2 (.inr ⟨(bppFault_or_regionFault_or hbpp hl _).trans ?_, rfl⟩)
  exact check_or_eq_none.2 ⟨(pixelDataFault_eq_none_iff s).2 hlen, check_or_eq_none.2
    ⟨(dstOverflowFault_eq_none_iff _ s).2 hfit, (filterTypeFault_eq_none_iff s).2 htypes⟩⟩

theorem StoredExactly.memRead {s t : State} {a : Nat} {bs : Bytes} (h : StoredExactly s t a bs) :
    t.memRead a bs.length = bs := by
  refine List.ext_getElem (by simp) fun i h1 h2 => ?_
  simp [State.memRead, h (a + i), h2]

/-- Where the rows reconstructed from SRC are stored, each reads as reconstructed from its line of SRC and
the row stored above it. -/
theorem StoredExactly.memRead_defilterRow {s t : State} {bpp r h src dst : Nat}
    (hst : StoredExactly s t dst (defilterRows bpp r h [] (s.memRead src (h * (r + 1))))) {y : Nat}
    (hy : y < h) :
    t.memRead (dst + y * r) r = reconRow (s.readByte (src + y * (r + 1))).toNat bpp
      (if 1 ≤ y then t.memRead (dst + (y - 1) * r) r else []) []
      (s.memRead (src + y * (r + 1) + 1) r) := by
  have hsrc := memRead_length s src (h * (r + 1))
  have hout : t.memRead dst (h * r) = defilterRows bpp r h [] (s.memRead src (h * (r + 1))) := by
    simpa only [defilterRows_length bpp r h [] _ hsrc] using hst.memRead
  have hrow (z : Nat) (hz : z < h) : t.memRead (dst + z * r) r =
      blockOf r z (defilterRows bpp r h [] (s.memRead src (h * (r + 1)))) := by
    rw [← hout]
    refine memRead_eq_blockOf t dst ?_
    rw [← Nat.succ_mul]
    exact Nat.mul_le_mul_right r hz
  have hline : blockOf (r + 1) y (s.memRead src (h * (r + 1))) =
      s.memRead (src + y * (r + 1)) (r + 1) := by
    refine (memRead_eq_blockOf s src ?_).symm
    rw [← Nat.succ_mul]
    exact Nat.mul_le_mul_right (r + 1) hy
  have habove : rowAbove r [] (defilterRows bpp r h [] (s.memRead src (h * (r + 1)))) y =
      if 1 ≤ y then t.memRead (dst + (y - 1) * r) r else [] := by
    cases y with
    | zero => rfl
    | succ y => rw [if_pos (by omega), Nat.add_sub_cancel, hrow y (by omega), rowAbove]
  rw [hrow y hy, blockOf_defilterRows hsrc hy, habove, hline, memRead_getD _ _ _ _ (by omega),
    Nat.add_comm r 1, memRead_add]
  rfl

/-- Each stored byte is reconstructed from its filtered byte and the stored neighbours. -/
theorem StoredExactly.readByte_defilterRow {s t : State} {bpp r h src dst : Nat}
    (hst : StoredExactly s t dst (defilterRows bpp r h [] (s.memRead src (h * (r + 1)))))
    (hbpp : 1 ≤ bpp) {y x : Nat} (hy : y < h) (hx : x < r) :
    (t.readByte (dst + y * r + x)).toNat =
      ((s.readByte (src + y * (r + 1) + 1 + x)).toNat +
        predictor (s.readByte (src + y * (r + 1))).toNat
          (if bpp ≤ x then (t.readByte (dst + y * r + (x - bpp))).toNat else 0)
          (if 1 ≤ y then (t.readByte (dst + (y - 1) * r + x)).toNat else 0)
          (if bpp ≤ x ∧ 1 ≤ y then (t.readByte (dst + (y - 1) * r + (x - bpp))).toNat else 0)) % 256 := by
  have hleft (z : Nat) : (leftByte bpp (t.memRead (dst + z * r) r) x).toNat =
      if bpp ≤ x then (t.readByte (dst + z * r + (x - bpp))).toNat else 0 := by
    unfold leftByte
    split_ifs
    · rw [memRead_getD _ _ _ _ (by omega)]
    · rfl
  have hrow := hst.memRead_defilterRow hy
  have hbyte := getD_reconRow hbpp (s.readByte (src + y * (r + 1))).toNat
    (if 1 ≤ y then t.memRead (dst + (y - 1) * r) r else []) [] (s.memRead (src + y * (r + 1) + 1) r)
    (k := x) (x := x) (by simpa using hx) (by simp)
  rw [← hrow, memRead_getD _ _ _ _ hx, memRead_getD _ _ _ _ hx] at hbyte
  rw [hbyte, reconByte, BitVec.toNat_ofNat, hleft]
  by_cases hfirst : 1 ≤ y
  · simp only [hfirst, if_true, and_true, hleft, memRead_getD _ _ _ _ hx]
  · simp [hfirst, leftByte]

/-- Settles O45: the stored byte is its row's, and the neighbours are bytes of its row and the row above. -/
theorem defilterReconstructs : Obligations.DefilterReconstructs := by
  unfold Obligations.DefilterReconstructs
  rintro s bpp r h src dst rfl rfl rfl rfl rfl hlow hhigh hl hlen hfit htypes
  have hstored := complete_memWrite_storedExactly s.rawLen 0 s s.operand.dstAddr.toNat
    (defilterRows s.filter.bpp.toNat s.rowBytes s.rows [] s.srcBytes)
  have hwidth : (defilterRows s.filter.bpp.toNat s.rowBytes s.rows [] s.srcBytes).length = s.rawLen :=
    defilterRows_length _ _ _ _ _ (by rw [srcBytes_length, hlen]; rfl)
  have hsrc : s.srcBytes = s.memRead s.operand.srcAddr.toNat (s.rows * (s.rowBytes + 1)) :=
    congrArg _ hlen
  refine ⟨_, exec_sfDefilter_of_fits ⟨hlow, hhigh⟩ hl hlen hfit htypes, rfl,
    fun x hx => readByte_memWrite_outside s _ _ x (by rwa [hwidth]), ?_⟩
  rw [hsrc] at hstored ⊢
  generalize complete s.rawLen 0 _ = t at hstored ⊢
  rintro y x hy hx f filt a b c rfl rfl rfl rfl rfl
  rw [← predictor_of_le (htypes y hy)]
  exact hstored.readByte_defilterRow hlow hy hx

/-! ### Refiltered rows defiltered (42_filter.md R232) -/

/-- Type None adds nothing to a filtered byte. -/
theorem reconRow_none (bpp : Nat) (above done row : Bytes) :
    reconRow 0 bpp above done row = done ++ row := by
  induction row generalizing done with
  | nil => simp [reconRow]
  | cons filt row ih =>
    have hbyte (a b c : Byte) : reconByte 0 filt a b c = filt := by simp [reconByte, predictor]
    rw [reconRow]
    simp [hbyte, ih]

theorem defilterRows_refilterRows (bpp r n : Nat) (above raw : Bytes) (h : raw.length = n * r) :
    defilterRows bpp r n above (refilterRows r n raw) = raw := by
  induction n generalizing above raw with
  | zero => exact (List.length_eq_zero_iff.1 (by simpa using h)).symm
  | succ n ih =>
    rw [Nat.succ_mul] at h
    have hrow : (raw.take r).length = r := by
      rw [List.length_take]
      omega
    have htake (rest : Bytes) : (raw.take r ++ rest).take r = raw.take r := List.take_left' hrow
    have hdrop (rest : Bytes) : (raw.take r ++ rest).drop r = rest := List.drop_left' hrow
    simp only [refilterRows, defilterRows, List.headD_cons, List.drop_succ_cons, List.drop_zero, htake,
      hdrop, BitVec.toNat_ofNat, Nat.zero_mod, reconRow_none, List.nil_append]
    rw [ih _ _ (by rw [List.length_drop]; omega), List.take_append_drop]

/-- SF_DEFILTER of refiltered rows in SRC: every row is of type None, and the raw bytes come back. -/
theorem exec_sfDefilter_of_refilterRows {s : State} {raw : Bytes} (hbpp : EarlyChecksPass .sfDefilter s)
    (hl : RegionsLegal .sfDefilter s) (hsrc : s.srcBytes = refilterRows s.rowBytes s.rows raw)
    (hraw : raw.length = s.rows * s.rowBytes) (hfit : raw.length ≤ s.operand.dstLen.toNat) :
    ∃ u, exec .sfDefilter s = .next u ∧ u.out.len.toNat = raw.length ∧
      u.status.err = s.status.err ∧ u.memRead s.operand.dstAddr.toNat raw.length = raw := by
  have hlen : s.operand.srcLen.toNat = s.filteredLen := by
    rw [← srcBytes_length, hsrc, refilterRows_length _ _ _ hraw]
    rfl
  have htypes (y : Nat) (hy : y < s.rows) :
      (s.readByte (s.operand.srcAddr.toNat + y * s.stride)).toNat ≤ 4 := by
    have hinside : y * s.stride < s.operand.srcLen.toNat :=
      hlen ▸ Nat.mul_lt_mul_of_pos_right hy (Nat.succ_pos _)
    have hnone : (s.srcBytes).getD (y * s.stride) 0#8 = 0#8 := by
      rw [hsrc]
      exact getD_refilterRows_type hraw hy
    rw [← memRead_getD s _ _ _ hinside]
    exact (congrArg BitVec.toNat hnone).trans_le (by decide)
  have hrawLen : s.rawLen = raw.length := hraw.symm
  refine ⟨_, exec_sfDefilter_of_fits hbpp hl hlen (hrawLen.trans_le hfit) htypes, ?_, rfl, ?_⟩
  · rw [complete_out, hrawLen]
    exact word_toNat_of_lt _ (by have := s.operand.dstLen.isLt; omega)
  · rw [hsrc, defilterRows_refilterRows _ _ _ _ _ hraw, complete_memRead, memRead_memWrite_same]

/-- Settles O49: DST holds the refiltered rows, which the second command takes as its stream. -/
theorem filterRoundTrip : Obligations.FilterRoundTrip := by
  unfold Obligations.FilterRoundTrip
  rintro s t dst cap p he h het rfl t' ht' hl hfit
  obtain ⟨hbpp, -, hlen, hcap, rfl⟩ := success_of_exec h het
  have hout : (word s.filteredLen).toNat = s.filteredLen :=
    word_toNat_of_lt _ (by have := s.operand.dstLen.isLt; omega)
  have hraw : s.srcBytes.length = s.rows * s.rowBytes := by rw [srcBytes_length, hlen]; rfl
  have hlines := (complete_memWrite_storedExactly s.filteredLen 0 s s.operand.dstAddr.toNat
    (refilterRows s.rowBytes s.rows s.srcBytes)).memRead
  rw [refilterRows_length _ _ _ hraw] at hlines
  have hsrc : t'.srcBytes = refilterRows t'.rowBytes t'.rows s.srcBytes := by
    subst ht'
    exact (congrArg _ hout).trans hlines
  have hbpp' : EarlyChecksPass .sfDefilter t' := by
    subst ht'
    exact (bppFault_eq_none_iff s).1 hbpp
  obtain ⟨u, hu, hlength, herr, hbytes⟩ := exec_sfDefilter_of_refilterRows hbpp' hl hsrc
    (by subst ht'; exact hraw) (by subst ht'; rwa [srcBytes_length])
  subst ht'
  rw [srcBytes_length] at hlength hbytes
  exact ⟨u, hu, hlength, herr.trans he, hbytes⟩

end Sys2Proof.Machine
end

section
/-! SUPPORT. The law of the framer (41_framer.md R171, R188): the record that FR_READ_CHUNK reads is the one
that FR_WRITE_CHUNK stores again; and the check values of CRC-32. -/

namespace Sys2Proof.Machine

/-! ### CRC-32 (41_framer.md R171) -/

/-- Settles O44: the five words are evaluated. -/
theorem crc32CheckValues : Obligations.Crc32CheckValues := by
  unfold Obligations.Crc32CheckValues
  decide +kernel

/-! ### A record and its fields (41_framer.md R172) -/

/-- The passed truncation checks: the whole record lies in SRC. -/
theorem record_fits_of_truncationFault {s : State} {i c : Nat}
    (h : truncationFault s i c = none) : c + 12 + s.lengthField c ≤ s.operand.srcLen.toNat := by
  unfold truncationFault at h
  simp only at h
  split_ifs at h
  omega

theorem beBytes_fromBE_memRead (s : State) (a n : Nat) :
    beBytes n (fromBE (s.memRead a n)) = s.memRead a n := by
  simpa using beBytes_fromBE (s.memRead a n)

/-- A big-endian field of four bytes is a register value, and the register's bytes are the field. -/
theorem beBytes_word_fromBE (s : State) (a : Nat) :
    beBytes 4 (word (fromBE (s.memRead a 4))).toNat = s.memRead a 4 := by
  have hlt := fromBE_lt (s.memRead a 4)
  rw [memRead_length] at hlt
  rw [word_toNat_of_lt _ hlt, beBytes_fromBE_memRead]

/-- The bytes of a record in SRC are those of its fields. -/
theorem memRead_record (s : State) (c : Nat) :
    s.memRead (s.operand.srcAddr.toNat + c) (12 + s.lengthField c) =
      recordBytes (s.chunkAt c).type
        (s.memRead (s.operand.srcAddr.toNat + c + 8) (s.lengthField c)) (s.chunkAt c).crc := by
  have hlength : beBytes 4 (s.lengthField c) = s.memRead (s.operand.srcAddr.toNat + c) 4 :=
    beBytes_fromBE_memRead s _ 4
  rw [recordBytes, memRead_length, hlength]
  simp only [State.chunkAt, State.memReadBE, beBytes_word_fromBE]
  rw [show 12 + s.lengthField c = 4 + (4 + (s.lengthField c + 4)) by omega, memRead_add, memRead_add,
    memRead_add]

theorem recordBytes_inj_crc {type data : Bytes} {crc crc' : Word} :
    recordBytes type data crc = recordBytes type data crc' ↔ crc = crc' := by
  refine ⟨fun h => ?_, fun h => h ▸ rfl⟩
  simp only [recordBytes, List.append_cancel_left_eq] at h
  have hvalue := congrArg fromBE h
  have hlt : crc.toNat < 256 ^ 4 := crc.isLt
  have hlt' : crc'.toNat < 256 ^ 4 := crc'.isLt
  rw [fromBE_beBytes, fromBE_beBytes, Nat.mod_eq_of_lt hlt, Nat.mod_eq_of_lt hlt'] at hvalue
  exact BitVec.eq_of_toNat_eq hvalue

/-! ### The record stored again (41_framer.md R188) -/

theorem writeRecord_memRead (crc : Word) (s : State) :
    (writeRecord crc s).memRead s.operand.dstAddr.toNat (12 + s.framer.chLen.toNat) =
      recordBytes s.typeBytes s.dataBytes crc := by
  have hlength : (recordBytes s.typeBytes s.dataBytes crc).length = 12 + s.framer.chLen.toNat := by
    simp
  rw [writeRecord, complete_memRead, ← hlength, memRead_memWrite_same]

/-- The registers after a read give the record's type, data and CRCs back. -/
theorem chunk_of_readChunkEffect {s t' : State} {dst cap : Word} (hp : s.params.Legal)
    (hl : RegionsLegal .frReadChunk s)
    (hfits : s.framer.cursor.toNat + 12 + s.lengthField s.framer.cursor.toNat ≤ s.operand.srcLen.toNat)
    (ht' : t' = { readChunkEffect s with operand := { (readChunkEffect s).operand with
      srcAddr := (readChunkEffect s).framer.chDataAddr, dstAddr := dst, dstLen := cap } }) :
    t'.framer.chLen.toNat = s.lengthField s.framer.cursor.toNat ∧
    t'.typeBytes = (s.chunkAt s.framer.cursor.toNat).type ∧
    t'.dataBytes = s.memRead (s.operand.srcAddr.toNat + s.framer.cursor.toNat + 8)
      (s.lengthField s.framer.cursor.toNat) := by
  obtain ⟨⟨-, -, hmem⟩, -⟩ := hp
  have hrange := hl.1 (srcRegion s) (by simp [regions])
  simp only [srcRegion] at hrange
  have hlen : t'.framer.chLen.toNat = s.lengthField s.framer.cursor.toNat := by
    subst ht'
    exact word_toNat_of_lt (s.lengthField _) (by omega)
  have haddr : t'.operand.srcAddr.toNat = s.operand.srcAddr.toNat + s.framer.cursor.toNat + 8 := by
    subst ht'
    exact word_toNat_of_lt _ (by omega)
  refine ⟨hlen, ?_, ?_⟩
  · subst ht'
    exact beBytes_word_fromBE s _
  · rw [State.dataBytes, hlen, haddr, ht']
    rfl

/-- Settles O43: both commands store the record's type and data; the CRC field is the stored one, or the
computed one, which are equal exactly if CRC_MATCH is 1. -/
theorem chunkRoundTrip : Obligations.ChunkRoundTrip := by
  unfold Obligations.ChunkRoundTrip
  rintro s t dst cap hp he h het t' n ht' rfl hl hfit
  obtain ⟨-, hread, htrunc, rfl⟩ := success_of_exec h het
  obtain ⟨hlen, htype, hdata⟩ :=
    chunk_of_readChunkEffect hp hread (record_fits_of_truncationFault htrunc) ht'
  have hlen' : (readChunkEffect s).framer.chLen = t'.framer.chLen := by subst ht'; rfl
  have hdst : t'.operand.dstAddr = dst := by subst ht'; rfl
  have hcap : t'.operand.dstLen = cap := by subst ht'; rfl
  have hcrc : t'.framer.chCrc = (s.chunkAt s.framer.cursor.toNat).crc := by subst ht'; rfl
  have hcomputed : t'.chunkCrc = (s.chunkAt s.framer.cursor.toNat).computed := by
    rw [State.chunkCrc, htype, hdata]
    rfl
  rw [hlen', ← hcap] at hfit
  have hout : (word (12 + t'.framer.chLen.toNat)).toNat = 12 + t'.framer.chLen.toNat :=
    word_toNat_of_lt _ (by have := t'.operand.dstLen.isLt; omega)
  rw [hlen', ← hdst, hlen, memRead_record, ← htype, ← hdata, ← hlen, ← hcrc]
  refine ⟨⟨_, exec_of_success rfl ⟨hl, hfit, rfl⟩, hout, writeRecord_memRead _ t'⟩,
    ⟨_, exec_of_success (i := .frWriteChunkRecomp) rfl ⟨hl, hfit, rfl⟩, hout, ?_⟩⟩
  have hstored := writeRecord_memRead t'.chunkCrc
    { t' with framer := { t'.framer with chCrcCalc := t'.chunkCrc } }
  refine (Eq.congr_left hstored).trans (recordBytes_inj_crc.trans ?_)
  rw [hcrc, hcomputed, eq_comm]
  exact beq_iff_eq.symm

end Sys2Proof.Machine
end

section
/-! SUPPORT. The laws of the cipher (00_scope.md R15; 43_cipher.md R272, R273): powmod, and that CFB and ECB
decryption of what encryption stored give the plaintext back. -/

namespace Sys2Proof.Machine

/-- Settles O51: square and multiply is the power, and the power's facts are the library's. -/
theorem powmodIsThePower : Obligations.PowmodIsThePower := by
  unfold Obligations.PowmodIsThePower
  intro x y n hn
  rw [powmod_eq_pow_mod hn, powmod_eq_pow_mod hn, powmod_eq_pow_mod hn]
  exact ⟨rfl, congrArg (· % n) (pow_zero x), Nat.mod_lt _ hn, Nat.pow_mod x y n⟩

/-! ### Streams of length zero (43_cipher.md R274) -/

/-- A zero-length stream leaves both streams empty, and decrypting it is again the no-op. -/
theorem exec_stream_of_zero {i : Instr} {s : State} (h : StreamPreamble i s)
    (hkey : s.status.keyValid = true) (hzero : s.operand.srcLen.toNat = 0) :
    exec i s = .next (s.succeeded 0 0) :=
  h.2.1 hkey (BitVec.eq_of_toNat_eq hzero)

/-! ### CFB (43_cipher.md R273) -/

theorem xorBytes_xorBytes {p q : Bytes} (h : p.length ≤ q.length) :
    xorBytes (xorBytes p q) q = p := by
  refine List.ext_getElem (by simp [xorBytes]; omega) fun i h1 h2 => ?_
  simp [xorBytes]

/-- Decryption has the ciphertext that encryption feeds back, so each segment's keystreams agree. -/
theorem cfbDecSegments_cfbEncSegments (k : KeyRegs) (n fb : Nat) (plain : Bytes)
    (h : plain.length ≤ n * k.kb) :
    cfbDecSegments k n fb (cfbEncSegments k n fb plain) = plain := by
  induction n generalizing fb plain with
  | zero => exact (List.length_eq_zero_iff.1 (by simpa using h)).symm
  | succ n ih =>
    rw [Nat.succ_mul] at h
    have hfits : (plain.take k.kb).length ≤ (cfbKeystream k fb).length := by
      rw [cfbKeystream_length]
      exact List.length_take_le _ _
    simp only [cfbEncSegments, cfbDecSegments]
    generalize hc : xorBytes (plain.take k.kb) (cfbKeystream k fb) = c
    have hlength : c.length = min k.kb plain.length := by
      rw [← hc, xorBytes, List.length_zipWith, List.length_take, cfbKeystream_length]
      omega
    obtain ⟨htake, hdrop⟩ := take_and_drop_of_head_block (w := k.kb)
      (c := c) (rest := cfbEncSegments k n (fromBE c) (plain.drop k.kb)) (by
        rw [List.length_append, cfbEncSegments_length, List.length_drop, hlength]
        omega)
    rw [htake, hdrop, ih _ _ (by rw [List.length_drop]; omega), ← hc, xorBytes_xorBytes hfits,
      List.take_append_drop]

/-- What RC_CFB_ENC stores, with its IV left in place: IV is a region the command only reads. -/
theorem cfbEnc_stored {s t : State} (hok : s.KeyOk) (hs : Success .rcCfbEnc s t)
    (h : exec .rcCfbEnc s = .next t) (hpos : 0 < s.operand.srcLen.toNat) :
    t.ivValue = s.ivValue ∧ t.out.len.toNat = s.operand.srcLen.toNat ∧
      t.memRead s.operand.dstAddr.toNat s.operand.srcLen.toNat =
        cfbEncSegments s.key (ceilDiv s.operand.srcLen.toNat s.key.kb) s.ivValue s.srcBytes := by
  obtain ⟨hkey, ⟨hzero, -⟩ | ⟨-, hcheck, rfl⟩⟩ := hs
  · omega
  obtain ⟨⟨hkb, -⟩, -⟩ := hok.1 hkey
  have hlength := cfbEncSegments_length s.key (ceilDiv s.operand.srcLen.toNat s.key.kb) s.ivValue s.srcBytes
  rw [srcBytes_length, Nat.min_eq_right (le_ceilDiv_mul _ _ (by omega))] at hlength
  refine ⟨?_, word_toNat_of_lt _ s.operand.srcLen.isLt, ?_⟩
  · refine congrArg fromBE (memRead_congr _ _ fun i hi => ?_)
    exact sourceIsNeverWritten .rcCfbEnc s _ h (ivRegion s) (by simp [regions]) rfl _
      (Nat.le_add_right _ _) (Nat.add_lt_add_left hi _)
  · have hread := memRead_memWrite_same s s.operand.dstAddr.toNat
      (cfbEncSegments s.key (ceilDiv s.operand.srcLen.toNat s.key.kb) s.ivValue s.srcBytes)
    rwa [hlength] at hread

/-- Settles O58: the second command reads the ciphertext with the same IV and key. -/
theorem cfbRoundTrip : Obligations.CfbRoundTrip := by
  unfold Obligations.CfbRoundTrip
  rintro s t dst cap l hok he h het rfl t' ht' hl hfit
  have hs := success_of_exec h het
  have hkey : s.status.keyValid = true := hs.1
  obtain ⟨-, -, -, -, hkept, -⟩ := exec_frame h
  obtain ⟨hkeys, hvalid, -⟩ := hkept (by decide) (by decide)
  have hkey' : t'.status.keyValid = true := by subst ht'; exact hvalid.trans hkey
  have herr' : t'.status.err = false := by subst ht'; exact het
  rcases Nat.eq_zero_or_pos s.operand.srcLen.toNat with hzero | hpos
  · have hzero' : t'.operand.srcLen.toNat = 0 := by
      obtain ⟨-, ⟨-, rfl⟩ | ⟨hpos, -⟩⟩ := hs
      · subst ht'; rfl
      · omega
    rw [hzero]
    exact ⟨_, exec_stream_of_zero (streamPreamble (.inr (.inr (.inr rfl))) t') hkey' hzero', rfl, herr',
      rfl⟩
  obtain ⟨hiv, hlen, hcipher⟩ := cfbEnc_stored hok hs h hpos
  obtain ⟨⟨hkb, -⟩, -⟩ := hok.1 hkey
  have hsrcLen : t'.operand.srcLen.toNat = s.operand.srcLen.toNat := by subst ht'; exact hlen
  have hdst : t'.operand.dstAddr = dst := by subst ht'; rfl
  have hkeys' : t'.key = s.key := by subst ht'; exact hkeys
  have hiv' : t'.ivValue = s.ivValue := by subst ht'; exact hiv
  have hsrc : t'.srcBytes = cfbEncSegments s.key (ceilDiv s.operand.srcLen.toNat s.key.kb) s.ivValue
      s.srcBytes := by
    rw [State.srcBytes, hsrcLen, ← hcipher]
    subst ht'
    rfl
  have hplain : cfbDecSegments t'.key (ceilDiv t'.operand.srcLen.toNat t'.key.kb) t'.ivValue
      t'.srcBytes = s.srcBytes := by
    rw [hkeys', hsrcLen, hiv', hsrc]
    refine cfbDecSegments_cfbEncSegments _ _ _ _ ?_
    rw [srcBytes_length]
    exact le_ceilDiv_mul _ _ (by omega)
  obtain ⟨u, hu, hstate, -, hbytes⟩ := exec_cfb_of_fits (exec_rcCfbDec t') hplain
    ((srcBytes_length s).trans hsrcLen.symm) hkey' (by omega) hl (by subst ht'; exact hlen.trans_le hfit)
  rw [hdst, hsrcLen] at hbytes
  refine ⟨u, hu, ?_, ?_, hbytes⟩
  · rw [hstate, hsrcLen]
    exact word_toNat_of_lt _ s.operand.srcLen.isLt
  · rw [hstate]
    exact herr'

/-! ### Numbers of a short byte sequence (00_scope.md R12) -/

theorem leBytes_add (m n v : Nat) :
    leBytes (m + n) v = leBytes m v ++ leBytes n (v / 256 ^ m) := by
  induction m generalizing v with
  | zero => simp [leBytes]
  | succ m ih =>
    rw [Nat.succ_add, leBytes, leBytes, ih, Nat.div_div_eq_div_mul, ← Nat.pow_succ', List.cons_append]

theorem leBytes_zero (n : Nat) : leBytes n 0 = List.replicate n 0#8 := by
  induction n with
  | zero => rfl
  | succ n ih => rw [leBytes, Nat.zero_div, ih, List.replicate_succ]

/-- The number of a short sequence, in more bytes than it has: zeros come first. -/
theorem beBytes_fromBE_of_le {n : Nat} {bs : Bytes} (h : bs.length ≤ n) :
    beBytes n (fromBE bs) = List.replicate (n - bs.length) 0#8 ++ bs := by
  obtain ⟨j, rfl⟩ := Nat.exists_eq_add_of_le h
  have hlow := leBytes_fromLE bs.reverse
  rw [List.length_reverse] at hlow
  have hhigh : fromLE bs.reverse / 256 ^ bs.length = 0 := by
    have hlt := fromLE_lt bs.reverse
    rw [List.length_reverse] at hlt
    exact Nat.div_eq_of_lt hlt
  rw [beBytes, fromBE, leBytes_add, hlow, hhigh, leBytes_zero, List.reverse_append,
    List.reverse_replicate, List.reverse_reverse, Nat.add_sub_cancel_left]

/-- Two streams with the same blocks are the same. -/
theorem eq_of_blockOf_eq {w n : Nat} {p q : Bytes} (hp : p.length ≤ n * w) (hq : q.length ≤ n * w)
    (h : ∀ i, i < n → blockOf w i p = blockOf w i q) : p = q := by
  induction n generalizing p q with
  | zero =>
    have hp0 : p = [] := List.length_eq_zero_iff.1 (by simpa using hp)
    have hq0 : q = [] := List.length_eq_zero_iff.1 (by simpa using hq)
    rw [hp0, hq0]
  | succ n ih =>
    rw [Nat.succ_mul] at hp hq
    have hhead : p.take w = q.take w := by simpa using h 0 (Nat.succ_pos n)
    have htail : p.drop w = q.drop w :=
      ih (by rw [List.length_drop]; omega) (by rw [List.length_drop]; omega) fun i hi => by
        simpa using h (i + 1) (by omega)
    rw [← List.take_append_drop w p, hhead, htail, List.take_append_drop]

/-! ### ECB (43_cipher.md R272) -/

/-- Block `i` of the plaintext of RC_ECB_ENC (43_cipher.md R266). -/
def State.plainBlock (s : State) (i : Nat) : Bytes :=
  s.memRead (s.operand.srcAddr.toNat + i * s.key.ku)
    (min s.key.ku (s.operand.srcLen.toNat - i * s.key.ku))

/-- With a modulus of full width, every plaintext block is below it. -/
theorem fromBE_plainBlock_lt {s : State} (hok : s.KeyOk) (hkey : s.status.keyValid = true)
    (hwide : s.status.keyNarrow = false) (i : Nat) : fromBE (s.plainBlock i) < s.key.kn := by
  obtain ⟨-, -, hnarrow⟩ := hok.1 hkey
  have hkn : 256 ^ s.key.ku ≤ s.key.kn := by
    refine not_lt.1 fun hlt => ?_
    rw [hnarrow.2 hlt] at hwide
    cases hwide
  calc fromBE (s.plainBlock i) < 256 ^ (s.plainBlock i).length := fromBE_lt _
    _ ≤ 256 ^ s.key.ku := Nat.pow_le_pow_right (by decide) (by simp [State.plainBlock])
    _ ≤ s.key.kn := hkn

/-- What RC_ECB_ENC stores with a wide key: the encrypted blocks over the two streams, and no flag. -/
theorem ecbEnc_stored {s t : State} (hok : s.KeyOk) (hwide : s.status.keyNarrow = false)
    (hblock : s.status.blockGeN = false) (hs : Success .rcEcbEnc s t)
    (h : exec .rcEcbEnc s = .next t) (hpos : 0 < s.operand.srcLen.toNat) :
    t.out.len.toNat = s.key.ku * s.blockCount ∧ t.out.extLen.toNat = s.blockCount ∧
      t.status.blockGeN = false ∧
      ∀ i, i < s.blockCount →
        t.memRead (s.operand.dstAddr.toNat + i * s.key.ku) s.key.ku ++
            t.memRead (s.operand.extAddr.toNat + i) 1 =
          beBytes s.key.kb (fromBE (s.plainBlock i) ^ s.key.ke % s.key.kn) := by
  obtain ⟨hkey, ⟨hzero, -⟩ | ⟨-, hcheck, -⟩⟩ := hs
  · omega
  obtain ⟨hl, hdst, hext⟩ := ecbEncFault_none hcheck
  obtain ⟨-, hencrypt⟩ := ecbEncryptResult s
  obtain ⟨hstored, -, -⟩ := hencrypt s.key.kb s.key.ku _ s.blockCount _ _ _
    (fun i => fromBE (s.plainBlock i)) rfl rfl rfl rfl rfl rfl rfl rfl hok hkey hpos hl
  obtain ⟨t', ht', hstate, hflag, -, hblocks⟩ := hstored hdst hext
  obtain rfl : t' = t := Host.Outcome.next.inj (ht'.symm.trans h)
  refine ⟨?_, ?_, ?_, hblocks⟩
  · rw [hstate]
    exact word_toNat_of_lt _ (by have := s.operand.dstLen.isLt; omega)
  · rw [hstate]
    exact word_toNat_of_lt _ (by have := s.operand.extLen.isLt; omega)
  · rw [← Bool.not_eq_true, hflag, not_or]
    exact ⟨by simp [hblock], fun ⟨i, _, hge⟩ => (fromBE_plainBlock_lt hok hkey hwide i).not_ge hge⟩

section Decrypt

variable {s : State} {block : Nat → Bytes} {c : Nat → Nat} {k : Nat}

/-- RC_ECB_DEC of values below the modulus that decrypt to the numbers of the plaintext's blocks stores
these blocks, and sets no flag. -/
theorem exec_rcEcbDec_of_values (hok : s.KeyOk) (hkey : s.status.keyValid = true)
    (hl : RegionsLegal .rcEcbDec s) (hpos : 0 < s.cipher.plainLen.toNat)
    (hfit : s.cipher.plainLen.toNat ≤ s.operand.dstLen.toNat)
    (hk : k = ceilDiv s.cipher.plainLen.toNat s.key.ku)
    (hlen : s.operand.srcLen.toNat = s.key.ku * k) (hext : s.operand.extLen.toNat = k)
    (hwidth : ∀ i, (block i).length = min s.key.ku (s.cipher.plainLen.toNat - i * s.key.ku))
    (hvalue : ∀ i, i < k → fromBE (s.memRead (s.operand.srcAddr.toNat + i * s.key.ku) s.key.ku ++
      s.memRead (s.operand.extAddr.toNat + i) 1) = c i)
    (hlt : ∀ i, i < k → c i < s.key.kn)
    (hplain : ∀ i, i < k → c i ^ s.key.kd % s.key.kn = fromBE (block i))
    (hblock : s.status.blockGeN = false) (hdrop : s.status.dropNz = false) :
    ∃ u, exec .rcEcbDec s = .next u ∧ u.out.len = word s.cipher.plainLen.toNat ∧
      u.status.err = s.status.err ∧ u.status.blockGeN = false ∧ u.status.dropNz = false ∧
      ∀ i, i < k → u.memRead (s.operand.dstAddr.toNat + i * s.key.ku)
        (min s.key.ku (s.cipher.plainLen.toNat - i * s.key.ku)) = block i := by
  obtain ⟨⟨hkb, -⟩, -⟩ := hok.1 hkey
  have hku : s.key.ku = s.key.kb - 1 := rfl
  have hcover := le_ceilDiv_mul s.cipher.plainLen.toNat s.key.ku (by omega)
  have hkpos : 0 < k := by
    refine Nat.pos_of_ne_zero fun h0 => ?_
    rw [← hk, h0] at hcover
    omega
  have hlast := mul_lt_of_lt_ceilDiv (l := s.cipher.plainLen.toNat) (u := s.key.ku) (j := k - 1)
    (by omega) (by omega)
  have hcount : s.operand.srcLen.toNat / s.key.ku = k := by
    rw [hlen]
    exact Nat.mul_div_cancel_left k (by omega)
  have hbytes (i : Nat) (hi : i < k) :
      beBytes s.key.kb (fromBE (s.memRead (s.operand.srcAddr.toNat + i * s.key.ku) s.key.ku ++
        s.memRead (s.operand.extAddr.toNat + i) 1) ^ s.key.kd % s.key.kn) =
      List.replicate (s.key.kb - (block i).length) 0#8 ++ block i := by
    rw [hvalue i hi, hplain i hi, beBytes_fromBE_of_le (by have := hwidth i; omega)]
  obtain ⟨-, hdecrypt⟩ := ecbDecryptResult s
  obtain ⟨-, -, -, -, hstored⟩ := hdecrypt _ s.key.ku _ k _ _ _ _ _ _ _ rfl rfl rfl hcount.symm rfl rfl
    rfl rfl rfl rfl rfl hok hkey (hlen ▸ Nat.mul_pos (by omega) hkpos) hl
  obtain ⟨u, hu, hstate, hflag, hnonzero, -, hread⟩ := hstored
    (by rw [hlen]; exact Nat.mul_mod_right _ _) (by rwa [Nat.mul_comm]) (by rwa [Nat.mul_comm, hk]) hext
    hfit
  refine ⟨u, hu, ?_, ?_, ?_, ?_, fun i hi => ?_⟩
  · rw [hstate]
    rfl
  · rw [hstate]
    rfl
  · rw [← Bool.not_eq_true, hflag, not_or]
    exact ⟨by simp [hblock], fun ⟨i, hi, hge⟩ => (hlt i hi).not_ge (hvalue i hi ▸ hge)⟩
  · rw [← Bool.not_eq_true, hnonzero, not_or]
    refine ⟨by simp [hdrop], fun ⟨i, hi, x, hx, hne⟩ => hne ?_⟩
    rw [hbytes i hi, ← hwidth, List.take_left' List.length_replicate] at hx
    exact List.eq_of_mem_replicate hx
  · rw [hread i hi, hbytes i hi, ← hwidth, List.drop_left' List.length_replicate]

end Decrypt

/-- Settles O59: the values of the blocks are below the modulus, so the key's law gives them back, and the
bytes dropped of each are zeros. -/
theorem ecbRoundTrip : Obligations.EcbRoundTrip := by
  unfold Obligations.EcbRoundTrip
  rintro s t dst cap l hok hwide hlaw he hblock hdrop h het rfl t' ht' hl hfit
  have hs := success_of_exec h het
  have hkey : s.status.keyValid = true := hs.1
  obtain ⟨⟨hparams, -, -, hoperand, -⟩, -, -, -, hkept, -, hdropped⟩ := exec_frame h
  obtain ⟨hkeys, hvalid, hnarrow⟩ := hkept (by decide) (by decide)
  have hextAddr : t.operand.extAddr = s.operand.extAddr := by rw [hoperand]
  have hkeys' : t'.key = s.key := by subst ht'; exact hkeys
  have hkey' : t'.status.keyValid = true := by subst ht'; exact hvalid.trans hkey
  have herr' : t'.status.err = false := by subst ht'; exact het
  have hdrop' : t'.status.dropNz = false := by subst ht'; exact (hdropped (by decide)).trans hdrop
  have hdst : t'.operand.dstAddr = dst := by subst ht'; rfl
  have hplainLen : t'.cipher.plainLen = s.operand.srcLen := by subst ht'; rfl
  rcases Nat.eq_zero_or_pos s.operand.srcLen.toNat with hzero | hpos
  · obtain ⟨-, ⟨-, rfl⟩ | ⟨hpos, -⟩⟩ := hs
    · rw [hzero]
      refine ⟨_, exec_stream_of_zero (streamPreamble (.inr (.inl rfl)) t') hkey' (by subst ht'; rfl), rfl,
        herr', by subst ht'; exact hblock, hdrop', rfl⟩
    · omega
  obtain ⟨hout, hextOut, hflag, hcipher⟩ := ecbEnc_stored hok hwide hblock hs h hpos
  obtain ⟨⟨hkb, -⟩, ⟨-, hkn, -⟩, -⟩ := hok.1 hkey
  have hlt (i : Nat) : fromBE (s.plainBlock i) ^ s.key.ke % s.key.kn < s.key.kn :=
    Nat.mod_lt _ (Nat.zero_lt_of_lt (fromBE_plainBlock_lt hok hkey hwide i))
  have hvalue (i : Nat) (hi : i < s.blockCount) :
      fromBE (t'.memRead (t'.operand.srcAddr.toNat + i * t'.key.ku) t'.key.ku ++
        t'.memRead (t'.operand.extAddr.toNat + i) 1) =
      fromBE (s.plainBlock i) ^ s.key.ke % s.key.kn := by
    have hext : t'.operand.extAddr = s.operand.extAddr := by subst ht'; exact hextAddr
    have hbytes := congrArg fromBE (hcipher i hi)
    rw [fromBE_beBytes, Nat.mod_eq_of_lt ((hlt i).trans hkn)] at hbytes
    rw [← hbytes, hkeys', hext]
    subst ht'
    rfl
  obtain ⟨u, hu, hulen, huerr, hublock, hudrop, hread⟩ := exec_rcEcbDec_of_values
    (s := t') (block := s.plainBlock) (k := s.blockCount)
    (hok.congr (by subst ht'; exact hparams) hkeys' (by subst ht'; exact hvalid)
      (by subst ht'; exact hnarrow))
    hkey' hl (hplainLen ▸ hpos) (by rw [hplainLen]; subst ht'; exact hfit)
    (by rw [hplainLen, hkeys']; rfl) (by rw [hkeys', ← hout]; subst ht'; rfl)
    (by rw [← hextOut]; subst ht'; rfl) (fun i => by rw [hkeys', hplainLen]; simp [State.plainBlock])
    hvalue (fun i _ => by rw [hkeys']; exact hlt i)
    (fun i _ => by rw [hkeys']; exact hlaw _ (fromBE_plainBlock_lt hok hkey hwide i))
    (by subst ht'; exact hflag) hdrop'
  rw [hplainLen] at hulen hread
  rw [hkeys', hdst] at hread
  have hcover : s.operand.srcLen.toNat ≤ s.blockCount * s.key.ku :=
    le_ceilDiv_mul _ _ (Nat.sub_pos_of_lt hkb)
  refine ⟨u, hu, ?_, huerr.trans herr', hublock, hudrop, ?_⟩
  · rw [hulen]
    exact word_toNat_of_lt _ s.operand.srcLen.isLt
  · refine eq_of_blockOf_eq (by simpa using hcover) (by simpa using hcover) fun i hi => ?_
    rw [blockOf_memRead, blockOf_memRead, hread i hi]
    rfl

end Sys2Proof.Machine
end
